-- ==== Sys2Proof/Word.lean ====
section
/-!
DEFINITION. The two word types of the model.

R1: "ICV_CTLR is a 32-bit register"; R27 and R28 give the general registers and the program counter the same
width; R53 gives an instruction as one 32-bit number, or as two halfwords.
-/
namespace Sys2Proof

/-- A 32-bit word: a register value, an address, or the number of an instruction (R27, R28, R53). -/
abbrev Word := BitVec 32

/-- One T32 halfword of an instruction (R53). -/
abbrev Half := BitVec 16

end Sys2Proof
end

