-- ==== Sys2Proof/Config.lean ====
section
/-!
DEFINITION. What an implementation fixes (the record CFG of R5) and the free values.

CFG is an argument of a run, not of one chip: State carries one `Cfg`, so a statement about every state is a
statement about every configuration. The free values are opaque constants: nothing can be proved of their values.
-/
namespace Sys2Proof

/-- CFG.ISET (R5, D20): the instruction set a bit pattern belongs to. -/
inductive ISet where
  | a32
  | t32
  deriving DecidableEq, Repr

/-- CFG.HCR_ROWS (R5, D2, C1): how rows E1.7 and E1.8 of R60 are read; `corrected` is the spec's default. -/
inductive HcrRows where
  | corrected
  | literal
  deriving DecidableEq, Repr

/-- CFG.SYNC (R5, R45, D12): when indirect uses see a write; `immediate` is the spec's default. -/
inductive Sync where
  | immediate
  | drawUntilSync
  deriving DecidableEq, Repr

/-- The configuration record CFG of R5. The first six are what the read-only fields of ICV_CTLR return. -/
structure Cfg where
  /-- CFG.ExtRange, ICV_CTLR bit [19] (R12). -/
  extRange : BitVec 1
  /-- CFG.RSS, ICV_CTLR bit [18] (R13). -/
  rss : BitVec 1
  /-- CFG.A3V, ICV_CTLR bit [15] (R15). -/
  a3v : BitVec 1
  /-- CFG.SEIS, ICV_CTLR bit [14] (R16). -/
  seis : BitVec 1
  /-- CFG.IDbits, ICV_CTLR bits [13:11]; legal values 0b000 and 0b001 (R17). -/
  idBits : BitVec 3
  /-- CFG.PRIbits, ICV_CTLR bits [10:8] (R18). -/
  priBits : BitVec 3
  /-- CFG.HaveEL3, the source's `HaveEL(EL3)`. -/
  haveEl3 : Bool
  /-- CFG.ISET. -/
  iset : ISet
  /-- CFG.HCR_ROWS. -/
  hcrRows : HcrRows
  /-- CFG.SYNC. -/
  sync : Sync
  deriving DecidableEq, Repr

/-- `draw(N)` of R7: "a free N-bit value under no law, chosen anew at each use". The second argument is the number
of draws made before it, so two uses are two unrelated values. Log 8. -/
opaque Config.draw (width : Nat) : Nat → BitVec width

/-- The free choice of R45 under draw_until_sync, "at each use", as a free number reduced to a place in the list of
visible values. Log 6. -/
opaque Config.pick : Nat → Nat

/-- `w'` of R84: what ICV_BPR1's own write rule makes of a written value while CBPR = 0, "which is not in the
source"; the first argument is the number of draws made before it, the second the written value. Log 9. -/
opaque Config.bpr1Written : Nat → BitVec 3 → BitVec 3

end Sys2Proof
end

