-- ==== Sys2Proof/Syntax.lean ====
section
/-!
DEFINITION. The two instructions in scope (R3, R52), the tuple of encoding fields they are read from (R51, R53),
the text of a program (R55, R115), and the reasons for which a word or an operand is refused (R54 to R56).
-/
namespace Sys2Proof

/-- One constructor per row of spec/opcode_table.json. `t` is the number `<Rt>` names (R51, R56); the other five
encoding fields are fixed by R52. -/
inductive Instr where
  /-- `MRC` at the encoding of R52: System register to `x[t]` (R61). -/
  | mrc (t : BitVec 4)
  /-- `MCR` at the encoding of R52: `x[t]` to System register (R62). -/
  | mcr (t : BitVec 4)
  deriving DecidableEq, Repr

/-- The direction an outcome record names (R91): `MRC` reads, `MCR` writes. -/
inductive Dir where
  | read
  | write
  deriving DecidableEq, Repr

/-- The five numbers that name a System register (R31, R51). -/
structure SysRegAddr where
  coproc : BitVec 4
  opc1 : BitVec 3
  crn : BitVec 4
  crm : BitVec 4
  opc2 : BitVec 3
  deriving DecidableEq, Repr

/-- The fields of the 32-bit word, most significant first (R53). In T32 `cond` is the fixed top of the first
halfword. -/
structure InstrFields where
  /-- bits [31:28] -/
  cond : BitVec 4
  /-- bits [27:24], fixed 0b1110 -/
  fixed : BitVec 4
  /-- bits [23:21] -/
  opc1 : BitVec 3
  /-- bit [20], 1 for MRC and 0 for MCR -/
  l : BitVec 1
  /-- bits [19:16] -/
  crn : BitVec 4
  /-- bits [15:12] -/
  rt : BitVec 4
  /-- bits [11:8] -/
  coproc : BitVec 4
  /-- bits [7:5] -/
  opc2 : BitVec 3
  /-- bit [4], fixed 1 -/
  bit4 : BitVec 1
  /-- bits [3:0] -/
  crm : BitVec 4
  deriving DecidableEq, Repr

/-- Whether an instruction stands outside any conditional block of T32 (R55). The spec gives no instruction that opens
a block and no state that follows one, so this is part of the program's text, given from outside. Log 16. -/
inductive CondBlock where
  | outside
  | inside
  deriving DecidableEq, Repr

/-- One instruction of a program's text: its word (R53) and how it stands to conditional blocks (R55). -/
structure CodeWord where
  word : Word
  block : CondBlock
  deriving DecidableEq, Repr

/-- Why the spec refuses a word or an operand (R54 to R56). -/
inductive InstrRefusal where
  /-- "every other word is refused with the reason "not in scope"" (R54). -/
  | notInScope
  /-- "conditional MRC/MCR not admitted" (R55): in A32 another `cond` than always, in T32 an instruction inside a
  conditional block. -/
  | conditionalForm
  /-- `t = 15` (R56). -/
  | registerFifteen
  deriving DecidableEq, Repr

end Sys2Proof
end

