-- ==== Sys2Proof/WellFormed.lean ====
section
/-!
DEFINITION. The check an instruction must pass: R56 admits `t` in 0..14 and refuses `t = 15`.
-/
namespace Sys2Proof

/-- "The spec admits `t` in 0..14 and refuses `t = 15`" (R56). -/
def Instr.wf : Instr → Bool
  | .mrc t => t != 15
  | .mcr t => t != 15

end Sys2Proof
end

