-- ==== Sys2Proof/Decode.lean ====
section
/-!
DEFINITION. Words to instructions and back (R50 to R58).

The decoder is total on 32-bit words (R54): it pulls the field tuple out of the word once, and states its rules over
the tuple, as R53 asks. The spec gives an instruction as a number, not as bytes in memory (R41), so no byte order
appears here. PRESUMED (the spec's G1): the bit positions. Log 10.
-/
namespace Sys2Proof

/-- The encoding of R52: "coproc 15, opc1 0, CRn 12, CRm 12, opc2 4". -/
def icvCtlrAddr : SysRegAddr := { coproc := 0b1111, opc1 := 0b000, crn := 0b1100, crm := 0b1100, opc2 := 0b100 }

/-- `cond = 0b1110`, the always condition (R55); in T32 these bits are fixed to it (R53). -/
def condAlways : BitVec 4 := 0b1110

/-- The value of bits [27:24] (R53). -/
def fixedBits : BitVec 4 := 0b1110

/-- The direction of an instruction: `L = 1` for `MRC`, a read; `L = 0` for `MCR`, a write (R53, R91). -/
def Instr.dir : Instr → Dir
  | .mrc _ => .read
  | .mcr _ => .write

/-- The number `<Rt>` names (R56). -/
def Instr.rt : Instr → BitVec 4
  | .mrc t => t
  | .mcr t => t

/-- The five numbers of a field tuple that name a System register (R31). -/
def InstrFields.addr (f : InstrFields) : SysRegAddr :=
  { coproc := f.coproc, opc1 := f.opc1, crn := f.crn, crm := f.crm, opc2 := f.opc2 }

/-- The field tuple of a word, at the bit positions of R53. -/
def InstrFields.ofWord (w : Word) : InstrFields where
  cond := w.extractLsb' 28 4
  fixed := w.extractLsb' 24 4
  opc1 := w.extractLsb' 21 3
  l := w.extractLsb' 20 1
  crn := w.extractLsb' 16 4
  rt := w.extractLsb' 12 4
  coproc := w.extractLsb' 8 4
  opc2 := w.extractLsb' 5 3
  bit4 := w.extractLsb' 4 1
  crm := w.extractLsb' 0 4

/-- The word of a field tuple: `cond 1110 opc1 L CRn Rt coproc opc2 1 CRm`, high bits first (R53). -/
def InstrFields.toWord (f : InstrFields) : Word :=
  f.cond ++ f.fixed ++ f.opc1 ++ f.l ++ f.crn ++ f.rt ++ f.coproc ++ f.opc2 ++ f.bit4 ++ f.crm

/-- What bits [31:28] must be for the word to be an instruction in scope at all: in A32 they are the condition, and
any value is one; in T32 there is no condition field and they are fixed to 0b1110, so that a pair with others is
another word (R53, R54). -/
def topBitsInScope (iset : ISet) (cond : BitVec 4) : Bool :=
  match iset with
  | .a32 => true
  | .t32 => cond == condAlways

/-- An `MRC` or `MCR` with the five values of R52, conditional or not, whatever its `Rt`. -/
def InstrFields.inScope (iset : ISet) (f : InstrFields) : Bool :=
  topBitsInScope iset f.cond && f.fixed == fixedBits && f.bit4 == 1 && f.addr == icvCtlrAddr

/-- A form R55 does not admit. "The spec admits only the unconditional form: in A32 `cond = 0b1110`, in T32 an
instruction outside any conditional block." Log 16. -/
def isConditional (iset : ISet) (block : CondBlock) (f : InstrFields) : Bool :=
  match iset with
  | .a32 => f.cond != condAlways
  | .t32 => block == .inside

/-- The instruction of a field tuple, or the reason it is refused (R52, R54, R55, R56). -/
def decodeFields (iset : ISet) (block : CondBlock) (f : InstrFields) : Except InstrRefusal Instr :=
  if f.inScope iset = false then .error .notInScope
  else if isConditional iset block f = true then .error .conditionalForm
  else if f.rt = 15 then .error .registerFifteen
  else if f.l = 1 then .ok (.mrc f.rt)
  else .ok (.mcr f.rt)

/-- The decoder of R54, total on 32-bit words, for an instruction that stands to conditional blocks as `block` says
(R55). -/
def decode (iset : ISet) (block : CondBlock) (w : Word) : Except InstrRefusal Instr :=
  decodeFields iset block (InstrFields.ofWord w)

/-- "a first halfword of `0xEE1C` or `0xEE0C` begins a 32-bit instruction" (R54, the spec's G1). -/
def beginsLong (h : Half) : Bool := h == 0xEE1C || h == 0xEE0C

/-- The T32 decoder over a stream of halfwords, `hw1` first (R53, R54): the instruction and the halfwords after it.
A stream that does not begin with a whole instruction in scope is refused; `block` is how that first instruction
stands to conditional blocks (R55). -/
def decodeHalfwords (block : CondBlock) : List Half → Except InstrRefusal (Instr × List Half)
  | hw1 :: hw2 :: rest =>
    if beginsLong hw1 then (decode .t32 block (hw1 ++ hw2)).map (fun i => (i, rest)) else .error .notInScope
  | _ => .error .notInScope

/-- The bit `L` of an instruction (R53). -/
def Dir.bit : Dir → BitVec 1
  | .read => 1
  | .write => 0

/-- The field tuple of an instruction in its unconditional form (R52, R53, R55). -/
def fieldsOf (i : Instr) : InstrFields where
  cond := condAlways
  fixed := fixedBits
  opc1 := icvCtlrAddr.opc1
  l := i.dir.bit
  crn := icvCtlrAddr.crn
  rt := i.rt
  coproc := icvCtlrAddr.coproc
  opc2 := icvCtlrAddr.opc2
  bit4 := 1
  crm := icvCtlrAddr.crm

/-- The encoder: `0xEE1C0F9C | (t << 12)` for `MRC`, `0xEE0C0F9C | (t << 12)` for `MCR` (R53), the same 32 bits in
A32 and T32. -/
def encode (i : Instr) : Word := (fieldsOf i).toWord

/-- The two T32 halfwords `hw1`, `hw2` of an instruction, in the order of the stream (R53). -/
def encodeHalfwords (i : Instr) : List Half :=
  [(encode i).extractLsb' 16 16, (encode i).extractLsb' 0 16]

/-- The mnemonic of the customary spelling (R58). -/
def Instr.mnemonic : Instr → String
  | .mrc _ => "mrc"
  | .mcr _ => "mcr"

/-- The customary spelling of R58, `mrc p15, 0, r0, c12, c12, 4` with `r0` standing for any `<Rt>`. PRESUMED (the
spec's G2); nothing rests on it. Log 10. -/
def Instr.spelling (i : Instr) : String :=
  i.mnemonic ++ " p" ++ toString icvCtlrAddr.coproc.toNat ++ ", " ++ toString icvCtlrAddr.opc1.toNat ++ ", r" ++
    toString i.rt.toNat ++ ", c" ++ toString icvCtlrAddr.crn.toNat ++ ", c" ++ toString icvCtlrAddr.crm.toNat ++
    ", " ++ toString icvCtlrAddr.opc2.toNat

/-- The host's question of the decoder: the instruction of the number `w` of `nbits` bits, numbered as the opcode
table numbers it, outside any conditional block (T32: `hw1` is bits [31:16]). -/
def decodeTableWord (nbits w : Nat) : Option Instr :=
  (decode .a32 .outside (BitVec.ofNat 32 (w % 2 ^ nbits))).toOption

end Sys2Proof
end

