-- ==== Sys2Proof/Machine/State.lean ====
section
/-!
DEFINITION. The state of the machine, the reasons a step can stop, and the state after reset.

State holds what R10 to R29, R45 and R115 give the machine: the register ICV_CTLR, the general registers, the program
counter, the context CTX, the three opaque physical targets, the configuration and the program of the run. It has no
memory (R40), no flag (R29), and no trap-entry register (R97).
-/
namespace Sys2Proof.Machine

/-- `PSTATE.EL` (R24). -/
inductive EL where
  | el0
  | el1
  | el2
  | el3
  deriving DecidableEq, Repr

/-- The context CTX of R24, read and never written by the accesses. A one-bit input is a Bool, true for 1. -/
structure Ctx where
  /-- CTX.EL, `PSTATE.EL`. -/
  el : EL
  /-- CTX.IsMonitor, `PSTATE.M == M32_Monitor`. -/
  isMonitor : Bool
  /-- CTX.EL2Enabled, `EL2Enabled()`. -/
  el2Enabled : Bool
  /-- CTX.EL2_A32, `ELUsingAArch32(EL2)`. -/
  el2A32 : Bool
  /-- CTX.EL3_A32, `ELUsingAArch32(EL3)`. -/
  el3A32 : Bool
  /-- `HSTR_EL2.T12`. -/
  hstrEl2T12 : Bool
  /-- `HSTR.T12`. -/
  hstrT12 : Bool
  /-- `ICH_HCR_EL2.TC`. -/
  ichHcrEl2Tc : Bool
  /-- `ICH_HCR.TC`. -/
  ichHcrTc : Bool
  /-- `HCR_EL2.FMO`. -/
  hcrEl2Fmo : Bool
  /-- `HCR_EL2.IMO`. -/
  hcrEl2Imo : Bool
  /-- `HCR.FMO`. -/
  hcrFmo : Bool
  /-- `HCR.IMO`. -/
  hcrImo : Bool
  /-- `SCR_EL3.IRQ`. -/
  scrEl3Irq : Bool
  /-- `SCR_EL3.FIQ`. -/
  scrEl3Fiq : Bool
  /-- `SCR.IRQ`. -/
  scrIrq : Bool
  /-- `SCR.FIQ`. -/
  scrFiq : Bool
  /-- `SCR.NS`, one input whether EL3 uses AArch32 or not (D15). -/
  scrNs : Bool
  /-- `ICC_HSRE.SRE`. -/
  iccHsreSre : Bool
  /-- `ICC_MSRE.SRE`. -/
  iccMsreSre : Bool
  deriving DecidableEq, Repr

/-- The content of a RW field (R20, R21): "either `Known b` with `b` one bit, or `Unknown`". -/
inductive FieldVal where
  | known (b : BitVec 1)
  | unknown
  deriving DecidableEq, Repr

/-- A RW field of ICV_CTLR with what R45 needs of it. -/
structure RwField where
  /-- the value a direct read sees (R22) -/
  now : FieldVal
  /-- values from before writes that indirect uses may still see under draw_until_sync, newest first (R45) -/
  old : List FieldVal
  deriving DecidableEq, Repr

/-- ICV_CTLR: "The only state of the register that can change is the two bits EOImode and CBPR" (R10). The same
storage is ICV_CTLR_EL1[31:0] (R2). -/
structure IcvCtlr where
  /-- EOImode, bit [1] (R20). -/
  eoimode : RwField
  /-- CBPR, bit [0] (R21). -/
  cbpr : RwField
  deriving DecidableEq, Repr

/-- The three opaque physical targets PHYS (R26). No rule reads what they hold: a read of one is a draw. -/
structure Phys where
  /-- PHYS.ICC_CTLR. -/
  iccCtlr : Word
  /-- PHYS.ICC_CTLR_S. -/
  iccCtlrS : Word
  /-- PHYS.ICC_CTLR_NS. -/
  iccCtlrNs : Word
  deriving DecidableEq, Repr

/-- The state of the machine. -/
structure State where
  /-- CFG, constant for a run (R5). -/
  cfg : Cfg
  /-- CTX, read only (R24). -/
  ctx : Ctx
  /-- `x[0]` to `x[14]` (R27). -/
  x : Vector Word 15
  /-- the address of the instruction being executed (R28) -/
  pc : Word
  /-- the address of `I_0` (R115) -/
  base : Word
  /-- the text of `I_0 .. I_(n-1)`, `I_k` standing at `base + 4*k` (R115): each one's word, and whether it stands in
  a conditional block (R55); never written (R47) -/
  program : List CodeWord
  /-- ICV_CTLR (R10). -/
  icv : IcvCtlr
  /-- the physical targets (R26) -/
  phys : Phys
  /-- THE MODEL'S OWN: how many free values have been drawn so far. Log 8. -/
  draws : Nat
  deriving DecidableEq, Repr

/-- What the outcome of a trapped access records (R91 to R94, D11). -/
structure AccessRecord where
  dir : Dir
  t : BitVec 4
  addr : SysRegAddr
  pc : Word
  deriving DecidableEq, Repr

/-- What is UNPREDICTABLE (R95). -/
inductive UnpredictableEvent where
  /-- "ICV_DIR access with EOImode == 0" (R81). -/
  | icvDirAccess
  /-- "INTID 1024..8191 delivered, ExtRange == 0" (R86). -/
  | extendedIntid
  deriving DecidableEq, Repr

/-- The outcomes of R90 to R95, each terminal (R97): the machine stops with the record and the state is the one
before the instruction. Safe: the model stops where a chip enters a handler the spec does not describe. Log 11. -/
inductive Fault where
  /-- `Undefined()` (R90), holding the pc. Raised by `takeTrap` for MRC and MCR. Safe. -/
  | undefined (pc : Word)
  /-- `SysAccessTrapA64(target_el, ec)` (R91, R93). Raised by `takeTrap` for MRC and MCR. Safe. -/
  | sysAccessTrapA64 (target : EL) (code : Nat) (access : AccessRecord)
  /-- `HypTrap(ec)` (R92). Raised by `takeTrap` for MRC and MCR. Safe. -/
  | hypTrap (code : Nat) (access : AccessRecord)
  /-- `MonitorTrap()` (R94); no code is passed. Raised by `takeTrap` for MRC and MCR. Safe. -/
  | monitorTrap (access : AccessRecord)
  /-- `Unpredictable(what)` (R95). Raised by `dirAccess` and `deliverIntid`, by no instruction. Safe. -/
  | unpredictable (what : UnpredictableEvent)
  deriving DecidableEq, Repr

/-- What the spec refuses, and the places where a run has no next instruction. -/
inductive Refusal where
  /-- No instruction answers with it: every arm of `exec` has its meaning. Safe. -/
  | notModelled (mnemonic : String)
  /-- A word or operand the spec refuses (R54 to R56). Raised by `fetchInstr`, and by MRC and MCR with `t = 15`.
  Safe. -/
  | instruction (why : InstrRefusal)
  /-- A configuration with a reserved IDbits value (R17, D9). Raised by `fetchInstr`. Safe. -/
  | reservedIdBits (v : BitVec 3)
  /-- `pc` is `base + 4*n`: the final state of the run (R115). Raised by `fetchInstr`. Safe. -/
  | endOfProgram
  /-- `pc` is at no instruction of the program and not at its end; R42 gives it no meaning. Raised by
  `fetchInstr`. Safe. -/
  | pcOutsideProgram (pc : Word)
  /-- An SGI with an affinity value the interface does not support: "the model gives it no meaning (refuse)"
  (R87). Raised by `sgiRequest`, by no instruction. Safe. -/
  | sgiUnsupported
  deriving DecidableEq, Repr

/-- A RW field straight after reset: `Unknown`, and nothing has been written (R20, R21, R110). -/
def RwField.reset : RwField := { now := .unknown, old := [] }

/-- The state straight after reset with the launch premises of R110 given: only EOImode and CBPR have a value of
the spec's, `Unknown`. -/
def State.launch (cfg : Cfg) (ctx : Ctx) (x : Vector Word 15) (base : Word) (program : List CodeWord) (phys : Phys)
    (draws : Nat) : State :=
  { cfg, ctx, x, pc := base, base, program, icv := { eoimode := .reset, cbpr := .reset }, phys, draws }

/-- The configuration of the worked example of R61, with the spec's defaults. DESIGN CHOICE, unsafe: log 1. -/
def exampleCfg : Cfg :=
  { extRange := 1, rss := 1, a3v := 1, seis := 0, idBits := 0b000, priBits := 0b100,
    haveEl3 := true, iset := .a32, hcrRows := .corrected, sync := .immediate }

/-- Every context input 0 or false, at the level `el`. -/
def Ctx.zero (el : EL) : Ctx :=
  { el, isMonitor := false, el2Enabled := false, el2A32 := false, el3A32 := false,
    hstrEl2T12 := false, hstrT12 := false, ichHcrEl2Tc := false, ichHcrTc := false,
    hcrEl2Fmo := false, hcrEl2Imo := false, hcrFmo := false, hcrImo := false,
    scrEl3Irq := false, scrEl3Fiq := false, scrIrq := false, scrFiq := false, scrNs := false,
    iccHsreSre := false, iccMsreSre := false }

/-- The context of the worked example of R61: "EL1 with EL2 enabled, EL2 using AArch64, `HCR_EL2.IMO = 1`, no T12,
no TC". DESIGN CHOICE, unsafe: log 2. -/
def exampleCtx : Ctx :=
  { Ctx.zero .el1 with el2Enabled := true, hcrEl2Imo := true }

/-- The machine right after reset: EOImode and CBPR `Unknown` (R110); every launch premise at the value the log
names (log 1 to 8); no program. -/
def State.reset : State :=
  State.launch exampleCfg exampleCtx (Vector.replicate 15 0) 0 [] { iccCtlr := 0, iccCtlrS := 0, iccCtlrNs := 0 } 0

end Sys2Proof.Machine
end

