-- ==== Sys2Proof/Machine/Operands.lean ====
section
/-!
DEFINITION. The one operand form of the two instructions: a general register (R27, R51, R56).

There are no flags (R29), so there is no file of flag computations.
-/
namespace Sys2Proof.Machine

/-- The general register `t` names: `x[0]` to `x[14]`, and none for `t = 15` (R27, R56). -/
def gprIndex (t : BitVec 4) : Option (Fin 15) :=
  if h : t.toNat < 15 then some ⟨t.toNat, h⟩ else none

/-- `x[i]` (R7, R27). Every register holds a value from reset, so a read never faults. Log 3. -/
def State.readX (s : State) (i : Fin 15) : Word := s.x[i]

/-- `x[i] <- v` (R7, R27). -/
def State.writeX (s : State) (i : Fin 15) (v : Word) : State := { s with x := s.x.set i v }

end Sys2Proof.Machine
end

