-- ==== Sys2Proof/Machine/Routing.lean ====
section
/-!
DEFINITION. The routing function of R60, which both accesses compute first, and the contexts R25 admits.
-/
namespace Sys2Proof.Machine

/-- The five answers of R60 that reach no register. -/
inductive Trap where
  /-- UNDEF -/
  | undef
  /-- TRAP_EL2_A64 -/
  | el2A64
  /-- HYP_TRAP -/
  | hyp
  /-- TRAP_EL3_A64 -/
  | el3A64
  /-- MONITOR_TRAP -/
  | monitor
  deriving DecidableEq, Repr

/-- The four answers of R60 that reach a register. -/
inductive Target where
  /-- ICV: ICV_CTLR -/
  | icv
  /-- ICC: ICC_CTLR -/
  | icc
  /-- ICC_S: ICC_CTLR_S -/
  | iccS
  /-- ICC_NS: ICC_CTLR_NS -/
  | iccNs
  deriving DecidableEq, Repr

/-- The nine answers of R60. -/
inductive Route where
  | trap (t : Trap)
  | register (r : Target)
  deriving DecidableEq, Repr

/-- `SCR.NS` chooses the bank: 0 selects `_S` (R102). -/
def bankOf (scrNs : Bool) : Target := if scrNs then .iccNs else .iccS

/-- `A32ROW` of R60: how rows E1.7 and E1.8 are read (C1, D2). -/
def a32Row (cfg : Cfg) (ctx : Ctx) : Bool :=
  match cfg.hcrRows with
  | .corrected => ctx.el2A32
  | .literal => !ctx.el2A32

/-- The EL1 arm of R60, rows E1.1 to E1.12. -/
def routeEl1 (cfg : Cfg) (ctx : Ctx) : Route :=
  if ctx.el2Enabled && !ctx.el2A32 && ctx.hstrEl2T12 then .trap .el2A64
  else if ctx.el2Enabled && ctx.el2A32 && ctx.hstrT12 then .trap .hyp
  else if ctx.el2Enabled && !ctx.el2A32 && ctx.ichHcrEl2Tc then .trap .el2A64
  else if ctx.el2Enabled && ctx.el2A32 && ctx.ichHcrTc then .trap .hyp
  else if ctx.el2Enabled && !ctx.el2A32 && ctx.hcrEl2Fmo then .register .icv
  else if ctx.el2Enabled && !ctx.el2A32 && ctx.hcrEl2Imo then .register .icv
  else if ctx.el2Enabled && a32Row cfg ctx && ctx.hcrFmo then .register .icv
  else if ctx.el2Enabled && a32Row cfg ctx && ctx.hcrImo then .register .icv
  else if cfg.haveEl3 && !ctx.el3A32 && ctx.scrEl3Irq && ctx.scrEl3Fiq then .trap .el3A64
  else if cfg.haveEl3 && ctx.el3A32 && !ctx.isMonitor && ctx.scrIrq && ctx.scrFiq then .trap .monitor
  else if cfg.haveEl3 then .register (bankOf ctx.scrNs)
  else .register .icc

/-- The EL2 arm of R60, rows E2.1 to E2.5. -/
def routeEl2 (cfg : Cfg) (ctx : Ctx) : Route :=
  if !ctx.iccHsreSre then .trap .undef
  else if cfg.haveEl3 && !ctx.el3A32 && ctx.scrEl3Irq && ctx.scrEl3Fiq then .trap .el3A64
  else if cfg.haveEl3 && ctx.el3A32 && ctx.scrIrq && ctx.scrFiq then .trap .monitor
  else if cfg.haveEl3 then .register .iccNs
  else .register .icc

/-- The EL3 arm of R60, rows E3.1 to E3.3. -/
def routeEl3 (ctx : Ctx) : Route :=
  if !ctx.iccMsreSre then .trap .undef
  else .register (bankOf ctx.scrNs)

/-- `Route(CTX, CFG)` of R60: "The tests are made in the order written and the first that holds decides". Total:
"every context gets exactly one answer". -/
def route (cfg : Cfg) (ctx : Ctx) : Route :=
  match ctx.el with
  | .el0 => .trap .undef
  | .el1 => routeEl1 cfg ctx
  | .el2 => routeEl2 cfg ctx
  | .el3 => routeEl3 ctx

/-- The contexts R25 admits: an AArch32 instruction runs at a level that is using AArch32. PRESUMED (the spec's G7);
no step tests it, since "A context that breaks them is not refused by the routing function". Log 12. -/
def Ctx.admitted (cfg : Cfg) (ctx : Ctx) : Bool :=
  (ctx.el != .el2 || ctx.el2A32) && (ctx.el != .el3 || (cfg.haveEl3 && ctx.el3A32)) && (!ctx.isMonitor || ctx.el == .el3)

end Sys2Proof.Machine
end

