-- ==== Sys2Proof/Machine/Ops.lean ====
section
/-!
DEFINITION. The named operations the instructions share: drawing a free value, moving past the instruction, raising
an outcome, and the frame of an access (R61, R62): operand, route, then either the outcome or the register.

There is no return from an exception: "no return instruction, no saved-state register and no nesting rule is named"
(R98).
-/
namespace Sys2Proof.Machine

/-- `draw(width)` of R7: a free value, and the state in which the next draw is another one. Log 8. -/
def State.draw (width : Nat) (s : State) : BitVec width × State :=
  (Config.draw width s.draws, { s with draws := s.draws + 1 })

/-- `pc <- pc + 4` modulo 2^32 (R28). -/
def State.advancePc (s : State) : State := { s with pc := s.pc + 4 }

/-- The code the trap routines are called with (R91 to R93). -/
def trapCode : Nat := 0x03

/-- What the outcome of an access records: direction, `t`, the five encoding fields (R91) and the pc (D11). -/
def accessRecord (dir : Dir) (t : BitVec 4) (s : State) : AccessRecord :=
  { dir, t, addr := icvCtlrAddr, pc := s.pc }

/-- TAKING AN EXCEPTION, the one operation for all five: the terminal outcome of R90 to R94. No trap entry is
described, so nothing is saved and control goes nowhere (R97). Log 11. -/
def takeTrap (dir : Dir) (t : BitVec 4) (s : State) : Trap → Fault
  | .undef => .undefined s.pc
  | .el2A64 => .sysAccessTrapA64 .el2 trapCode (accessRecord dir t s)
  | .hyp => .hypTrap trapCode (accessRecord dir t s)
  | .el3A64 => .sysAccessTrapA64 .el3 trapCode (accessRecord dir t s)
  | .monitor => .monitorTrap (accessRecord dir t s)

/-- The frame of both instructions (R61, R62): `t = 15` is refused (R56); the route decides before anything is
written; on a register arm `act` has its effect and then the pc moves. -/
def access (dir : Dir) (t : BitVec 4) (act : Target → Fin 15 → State → State) (s : State) :
    Host.Outcome State Fault Refusal :=
  match gprIndex t with
  | none => .refused (.instruction .registerFifteen)
  | some i =>
    match route s.cfg s.ctx with
    | .trap trap => .fault (takeTrap dir t s trap)
    | .register target => .next (act target i s).advancePc

end Sys2Proof.Machine
end

