-- ==== Sys2Proof/Machine/IcvCtlr.lean ====
section
/-!
DEFINITION. The register ICV_CTLR: its layout (R10 to R21), the word a read assembles (R22), what a write changes
(R23), and the old values R45 keeps for indirect uses.
-/
namespace Sys2Proof.Machine

/-- ICV_CTLR_EL1[31:0] is the same storage (R2). -/
abbrev State.icvCtlrEl1 (s : State) : IcvCtlr := s.icv

/-- "ICV_CTLR.ExtRange is an alias of ICC_CTLR.ExtRange" (R12): the one fact the spec holds about ICC_CTLR's
contents. Its bit position there is not given (R26), so no read of ICC_CTLR is constrained by it (D10). -/
abbrev iccCtlrExtRange (cfg : Cfg) : BitVec 1 := cfg.extRange

/-- The fields of a register word, most significant first (R10). -/
structure IcvView where
  /-- bits [31:20], RES0 (R11) -/
  res31To20 : BitVec 12
  /-- bit [19] (R12) -/
  extRange : BitVec 1
  /-- bit [18] (R13) -/
  rss : BitVec 1
  /-- bits [17:16], RES0 (R14) -/
  res17To16 : BitVec 2
  /-- bit [15] (R15) -/
  a3v : BitVec 1
  /-- bit [14] (R16) -/
  seis : BitVec 1
  /-- bits [13:11] (R17) -/
  idBits : BitVec 3
  /-- bits [10:8] (R18) -/
  priBits : BitVec 3
  /-- bits [7:2], RES0 (R19) -/
  res7To2 : BitVec 6
  /-- bit [1] (R20) -/
  eoimode : BitVec 1
  /-- bit [0] (R21) -/
  cbpr : BitVec 1
  deriving DecidableEq, Repr

/-- EOImode of a register word, bit [1] (R20). -/
def eoimodeBit (w : Word) : BitVec 1 := w.extractLsb' 1 1

/-- CBPR of a register word, bit [0] (R21). -/
def cbprBit (w : Word) : BitVec 1 := w.extractLsb' 0 1

/-- The fields of a register word at the bit positions of R10. -/
def icvView (w : Word) : IcvView where
  res31To20 := w.extractLsb' 20 12
  extRange := w.extractLsb' 19 1
  rss := w.extractLsb' 18 1
  res17To16 := w.extractLsb' 16 2
  a3v := w.extractLsb' 15 1
  seis := w.extractLsb' 14 1
  idBits := w.extractLsb' 11 3
  priBits := w.extractLsb' 8 3
  res7To2 := w.extractLsb' 2 6
  eoimode := eoimodeBit w
  cbpr := cbprBit w

/-- `CFGWORD` of R22. -/
def cfgWord (cfg : Cfg) : Word :=
  (cfg.extRange.setWidth 32 <<< 19) ||| (cfg.rss.setWidth 32 <<< 18) ||| (cfg.a3v.setWidth 32 <<< 15)
    ||| (cfg.seis.setWidth 32 <<< 14) ||| (cfg.idBits.setWidth 32 <<< 11) ||| (cfg.priBits.setWidth 32 <<< 8)

/-- The word of R22 with `val(EOImode)` and `val(CBPR)` given. -/
def icvWord (cfg : Cfg) (eoimode cbpr : BitVec 1) : Word :=
  cfgWord cfg ||| (eoimode.setWidth 32 <<< 1) ||| cbpr.setWidth 32

/-- `val` of R22: the bit of a `Known` field, a fresh draw for an `Unknown` one. -/
def State.fieldVal (f : FieldVal) (s : State) : BitVec 1 × State :=
  match f with
  | .known b => (b, s)
  | .unknown => s.draw 1

/-- `ICV_CTLR_read(S)` (R22). "A read changes no state": only the count of draws moves. -/
def State.readIcv (s : State) : Word × State :=
  let e := s.fieldVal s.icv.eoimode.now
  let c := e.2.fieldVal s.icv.cbpr.now
  (icvWord s.cfg e.1 c.1, c.2)

/-- A RW field after a write of `b`: `Known b` at once (R23). Under draw_until_sync the value before the write stays
visible to indirect uses, and so do the values before earlier writes (R45; DEDUCED for several writes, log 6). -/
def RwField.write (sync : Sync) (f : RwField) (b : BitVec 1) : RwField :=
  match sync with
  | .immediate => { now := .known b, old := [] }
  | .drawUntilSync => { now := .known b, old := f.now :: f.old }

/-- `ICV_CTLR_write(S, w)` on the register: two bits of `w` count, `w[31:2]` is discarded (R23). -/
def IcvCtlr.write (sync : Sync) (r : IcvCtlr) (w : Word) : IcvCtlr :=
  { eoimode := r.eoimode.write sync (eoimodeBit w), cbpr := r.cbpr.write sync (cbprBit w) }

/-- `ICV_CTLR_write(S, w)` (R23), both fields in one step (R43). -/
def State.writeIcv (w : Word) (s : State) : State :=
  { s with icv := s.icv.write s.cfg.sync w }

end Sys2Proof.Machine
end

