-- ==== Sys2Proof/Machine/Targets.lean ====
section
/-!
DEFINITION. Reading and writing the four access targets (R22, R23, R26).
-/
namespace Sys2Proof.Machine

/-- A physical target's new content; ICV_CTLR is none of them (R26). -/
def Phys.put (p : Phys) (v : Word) : Target → Phys
  | .icv => p
  | .icc => { p with iccCtlr := v }
  | .iccS => { p with iccCtlrS := v }
  | .iccNs => { p with iccCtlrNs := v }

/-- The value a read of the target returns: R22 for ICV_CTLR, `draw(32)` for a physical target (R26, D10). -/
def State.readTarget (s : State) : Target → Word × State
  | .icv => s.readIcv
  | .icc | .iccS | .iccNs => s.draw 32

/-- A write of `w` to the target: R23 for ICV_CTLR; a physical target is left "holding an unconstrained new value",
nothing else changes, and `w` does not matter (R26, D10). -/
def State.writeTarget (w : Word) (s : State) (target : Target) : State :=
  match target with
  | .icv => s.writeIcv w
  | .icc | .iccS | .iccNs =>
    let d := s.draw 32
    { d.2 with phys := s.phys.put d.1 target }

end Sys2Proof.Machine
end

