-- ==== Sys2Proof/Machine/Access.lean ====
section
/-!
DEFINITION. The meanings of the two instructions, `MRC` (R61) and `MCR` (R62).
-/
namespace Sys2Proof.Machine

/-- `MRC(t)` (R61): `x[t]` receives the value of the target; `x[t]` and `pc` are the only state written. -/
def execMrc (t : BitVec 4) (s : State) : Host.Outcome State Fault Refusal :=
  access .read t (fun target i s => (s.readTarget target).2.writeX i (s.readTarget target).1) s

/-- `MCR(t)` (R62): the target receives `x[t]`; `x[t]` is never written. -/
def execMcr (t : BitVec 4) (s : State) : Host.Outcome State Fault Refusal :=
  access .write t (fun target i s => s.writeTarget (s.readX i) target) s

end Sys2Proof.Machine
end

