-- ==== Sys2Proof/Machine/Dispatch.lean ====
section
/-!
DEFINITION. One arm per constructor of Instr (R61, R62).
-/
namespace Sys2Proof.Machine

def exec (i : Instr) (s : State) : Host.Outcome State Fault Refusal :=
  match i with
  | .mrc t => Sys2Proof.Machine.execMrc t s
  | .mcr t => Sys2Proof.Machine.execMcr t s

end Sys2Proof.Machine
end

