-- ==== Sys2Proof/Machine/Fetch.lean ====
section
/-!
DEFINITION. A program and where a run stands in it (R115): the instruction `I_k` at `base + 4*k`, the final state at
`base + 4*n`, and what the model refuses before an instruction runs.
-/
namespace Sys2Proof.Machine

/-- "A configuration with `CFG.IDbits` outside {0b000, 0b001} is not a configuration of this hardware" (R17). -/
def configAdmitted (cfg : Cfg) : Bool := cfg.idBits == 0b000 || cfg.idBits == 0b001

/-- Where `pc` stands relative to `base`, modulo 2^32 (R28, R115). DESIGN CHOICE, unsafe: so a run that reaches the top
of the address space goes on at address 0, where "wrap-around ... [is] not in the source" (R28). Log 25. -/
def State.offset (s : State) : Nat := (s.pc - s.base).toNat

/-- `pc` is the address `base + 4*k` of a place `k` (R115); any other address is given no meaning (R42). -/
def State.onPlace (s : State) : Bool := s.offset % 4 == 0

/-- The `k` of `pc = base + 4*k` (R115), modulo 2^32 (log 25). -/
def State.place (s : State) : Nat := s.offset / 4

/-- "`pc` reaches `base + 4*n`, which is the final state" (R115). -/
def State.atEnd (s : State) : Bool := s.onPlace && s.place == s.program.length

/-- The text of the instruction at `pc`. -/
def State.currentCode (s : State) : Option CodeWord :=
  if s.onPlace then s.program[s.place]? else none

/-- The instruction the next step runs, or why there is none: a configuration R17 refuses, a word R54 to R56 refuse
where it stands, the end of the run, or an address outside the program (R115). -/
def fetchInstr (s : State) : Except Refusal Instr :=
  if configAdmitted s.cfg = false then .error (.reservedIdBits s.cfg.idBits)
  else
    match s.currentCode with
    | some c =>
      match decode s.cfg.iset c.block c.word with
      | .ok i => .ok i
      | .error why => .error (.instruction why)
    | none => if s.atEnd then .error .endOfProgram else .error (.pcOutsideProgram s.pc)

/-- A program's text loaded where the run stands: `base` becomes `pc`, so a "run starts with `pc = base`" (R115). -/
def State.loadCode (s : State) (cs : List CodeWord) : State := { s with base := s.pc, program := cs }

/-- The text of an instruction in the one form R55 admits: its word (R53), outside any conditional block. -/
def codeOf (i : Instr) : CodeWord := { word := encode i, block := .outside }

/-- "a finite list of decoded instructions" (R115) loaded where the run stands. -/
def State.loadProgram (s : State) (is : List Instr) : State := s.loadCode (is.map codeOf)

/-- The number `w` of `nbits` bits as an instruction word, bit 0 the least significant (R53). -/
def tableWord (nbits w : Nat) : Word := BitVec.ofNat 32 (w % 2 ^ nbits)

end Sys2Proof.Machine
end

