-- ==== Sys2Proof/Machine/Step.lean ====
section
/-!
DEFINITION. One step of a run (R115): the instruction at `pc` runs.
-/
namespace Sys2Proof.Machine

/-- One step: the decoded instruction at `pc` has its meaning, or the run stops where R115 says it does. -/
def step (s : State) : Host.Outcome State Fault Refusal :=
  match fetchInstr s with
  | .ok i => exec i s
  | .error r => .refused r

/-- A program of the one instruction word `w`, outside any conditional block, loaded where the run stands (R115).
Log 5. -/
def State.withFetchWord (s : State) (nbits w : Nat) : State :=
  s.loadCode [{ word := tableWord nbits w, block := .outside }]

end Sys2Proof.Machine
end

