-- ==== Sys2Proof/Machine/FieldEffects.lean ====
section
/-!
DEFINITION. What the fields make the rest of the virtual CPU interface do (R80 to R89).

"No instruction of this spec calls these functions; they are not steps of the machine" (41_field_effects.md). Each is
a pure function of a field value, as the spec states it; the functions on a State are the same ones applied to a use
of the field (R45, R89).
-/
namespace Sys2Proof.Machine

/-- The two things a write to an End of Interrupt register can do (R80). -/
inductive EoiEffect where
  | priorityDrop
  | deactivate
  deriving DecidableEq, Repr

/-- The two virtual interrupt groups (R82). -/
inductive Group where
  | group0
  | group1
  deriving DecidableEq, Repr

/-- The two binary point registers (R82). -/
inductive BprName where
  | bpr0
  | bpr1
  deriving DecidableEq, Repr

/-- What the interface makes of a delivered INTID it accepts (R86). -/
inductive Delivery where
  /-- accepted, and nothing more is said -/
  | accepted
  /-- accepted, and "treated as requiring deactivation": an INTID in 1024..8191 -/
  | requiresDeactivation
  deriving DecidableEq, Repr

/-- `EOIR_write_effects` (R80), the same for ICV_EOIR0 and ICV_EOIR1; a set, listed without repeats. -/
def eoirWriteEffects (eoimode : BitVec 1) : List EoiEffect :=
  if eoimode = 0 then [.priorityDrop, .deactivate] else [.priorityDrop]

/-- `DIR_access` (R81), for a read and for a write alike; UNPREDICTABLE is a fault (R95). -/
def dirAccess (eoimode : BitVec 1) : Except Fault (List EoiEffect) :=
  if eoimode = 0 then .error (.unpredictable .icvDirAccess) else .ok [.deactivate]

/-- `PreemptionBPR` (R82). -/
def preemptionBpr (cbpr : BitVec 1) : Group → BprName
  | .group0 => .bpr0
  | .group1 => if cbpr = 0 then .bpr1 else .bpr0

/-- `min(bpr0 + 1, 0b111)`, "unsigned, computed without wrap" (R83, R85). -/
def saturatingSucc (b : BitVec 3) : BitVec 3 := BitVec.ofNat 3 (min (b.toNat + 1) 7)

/-- `BPR1_read` (R83). -/
def bpr1Read (cbpr : BitVec 1) (bpr0 stored : BitVec 3) : BitVec 3 :=
  if cbpr = 1 then saturatingSucc bpr0 else stored

/-- `BPR1_write` (R84): the new stored value, `written` being what ICV_BPR1's own write rule makes of the written
value, "which is not in the source". -/
def bpr1Write (cbpr : BitVec 1) (stored written : BitVec 3) : BitVec 3 :=
  if cbpr = 1 then stored else written

/-- `PriBits` (R18, R85): "The number of priority bits implemented, minus one" is the field. -/
def priBitCount (cfg : Cfg) : Nat := cfg.priBits.toNat + 1

/-- "The number of priority levels that `PriBits` bits give is `2^PriBits`" (R85). -/
def priLevels (cfg : Cfg) : Nat := 2 ^ priBitCount cfg

/-- The named premise PRI_MIN5 (R18, C4, D17), assumed by nothing. -/
def priMin5 (cfg : Cfg) : Bool := 0b100 ≤ cfg.priBits.toNat

/-- `IdBits` (R17, R85): "with no value at the other six arguments". -/
def idBitCount (idBits : BitVec 3) : Option Nat :=
  if idBits = 0b000 then some 16 else if idBits = 0b001 then some 24 else none

/-- The extended INTID range 1024..8191, both bounds included (R86). -/
def extendedIntid (intid : Nat) : Bool := 1024 ≤ intid && intid ≤ 8191

/-- `DeliverINTID` (R86); UNPREDICTABLE is a fault (R95). -/
def deliverIntid (extRange : BitVec 1) (intid : Nat) : Except Fault Delivery :=
  if extendedIntid intid then
    if extRange = 0 then .error (.unpredictable .extendedIntid) else .ok .requiresDeactivation
  else .ok .accepted

/-- `SGI_aff0_supported` (R87). -/
def sgiAff0Supported (rss : BitVec 1) (aff0 : Nat) : Bool :=
  if rss = 0 then aff0 ≤ 15 else aff0 ≤ 255

/-- `SGI_aff3_supported` (R87). -/
def sgiAff3Supported (a3v : BitVec 1) (aff3 : Nat) : Bool :=
  if a3v = 0 then aff3 == 0 else true

/-- Whether the interface supports the affinity values of an SGI; an unsupported one has no meaning and is refused
(R87). -/
def sgiRequest (cfg : Cfg) (aff0 aff3 : Nat) : Except Refusal Unit :=
  if sgiAff0Supported cfg.rss aff0 && sgiAff3Supported cfg.a3v aff3 then .ok () else .error .sgiUnsupported

/-- "whether the virtual CPU interface supports local generation of SEIs" (R16, R88); nothing branches on it. -/
def seiGenerationSupported (cfg : Cfg) : Bool := cfg.seis == 1

/-- The values a use of the field by another register's logic may see (R45). -/
def RwField.visible (sync : Sync) (f : RwField) : List FieldVal :=
  match sync with
  | .immediate => [f.now]
  | .drawUntilSync => f.now :: f.old

/-- "a free choice at each use" among the visible values (R45). -/
def State.pickVisible (f : RwField) (s : State) : FieldVal × State :=
  let vs := f.visible s.cfg.sync
  (vs.getD (Config.pick s.draws % vs.length) f.now, { s with draws := s.draws + 1 })

/-- One use of a field by the functions of this file: a visible value (R45), and a drawn bit where that value is
`Unknown` (R89). -/
def State.useField (f : RwField) (s : State) : BitVec 1 × State :=
  let p := s.pickVisible f
  p.2.fieldVal p.1

/-- One use of EOImode (R89). -/
def State.useEoimode (s : State) : BitVec 1 × State := s.useField s.icv.eoimode

/-- One use of CBPR (R89). -/
def State.useCbpr (s : State) : BitVec 1 × State := s.useField s.icv.cbpr

/-- A write to ICV_EOIR0 or ICV_EOIR1 as the machine stands (R80, R89). -/
def State.eoirWrite (s : State) : List EoiEffect × State :=
  (eoirWriteEffects s.useEoimode.1, s.useEoimode.2)

/-- An access to ICV_DIR as the machine stands (R81, R89). -/
def State.dirAccess (s : State) : Except Fault (List EoiEffect) × State :=
  (Sys2Proof.Machine.dirAccess s.useEoimode.1, s.useEoimode.2)

/-- The binary point register that decides the preemption of a group as the machine stands (R82, R89). -/
def State.preemptionBpr (s : State) (g : Group) : BprName × State :=
  (Sys2Proof.Machine.preemptionBpr s.useCbpr.1 g, s.useCbpr.2)

/-- A read of ICV_BPR1 as the machine stands, for the abstract values of the two registers (R83, R89). -/
def State.bpr1Read (s : State) (bpr0 stored : BitVec 3) : BitVec 3 × State :=
  (Sys2Proof.Machine.bpr1Read s.useCbpr.1 bpr0 stored, s.useCbpr.2)

/-- A write of `w` to ICV_BPR1 as the machine stands: the new stored value (R84, R89). With CBPR = 0 what the write
rule makes of `w` is free. Log 9. -/
def State.bpr1Write (s : State) (stored w : BitVec 3) : BitVec 3 × State :=
  (Sys2Proof.Machine.bpr1Write s.useCbpr.1 stored (Config.bpr1Written s.useCbpr.2.draws w),
    { s.useCbpr.2 with draws := s.useCbpr.2.draws + 1 })

/-- A synchronisation event (R45): what was written before it is what every later use sees. No instruction in scope
is one; it is stated for a model that adds one. -/
def State.synchronise (s : State) : State :=
  { s with icv := { eoimode := { s.icv.eoimode with old := [] }, cbpr := { s.icv.cbpr with old := [] } } }

end Sys2Proof.Machine
end

