-- ==== Sys2Proof/Safety.lean ====
section
/-!
DEFINITION. The terms claims are stated in: the levers of the routing chain, the chain as the source prints it, and
what holds of every state of a run.
-/
namespace Sys2Proof.Machine

/-- `T12` of the register set that matches EL2's state (R65 (a)). -/
def Ctx.t12 (ctx : Ctx) : Bool := if ctx.el2A32 then ctx.hstrT12 else ctx.hstrEl2T12

/-- `TC` of the register set that matches EL2's state (R65 (a)). -/
def Ctx.tc (ctx : Ctx) : Bool := if ctx.el2A32 then ctx.ichHcrTc else ctx.ichHcrEl2Tc

/-- FMO or IMO of the register set that matches EL2's state (R65 (a)). -/
def Ctx.redirected (ctx : Ctx) : Bool :=
  if ctx.el2A32 then ctx.hcrFmo || ctx.hcrImo else ctx.hcrEl2Fmo || ctx.hcrEl2Imo

/-- Both bits of the Secure monitor control register that matches EL3's state (R93, R94, R99). -/
def Ctx.el3Lever (ctx : Ctx) : Bool :=
  if ctx.el3A32 then ctx.scrIrq && ctx.scrFiq else ctx.scrEl3Irq && ctx.scrEl3Fiq

/-- One of rows E1.1 to E1.8 holds: EL2 traps the access or redirects it (R99). Rows E1.7 and E1.8 as CFG.HCR_ROWS
reads them (R60). -/
def el2Lever (cfg : Cfg) (ctx : Ctx) : Bool :=
  ctx.el2Enabled &&
    (ctx.t12 || ctx.tc || (!ctx.el2A32 && (ctx.hcrEl2Fmo || ctx.hcrEl2Imo)) ||
      (a32Row cfg ctx && (ctx.hcrFmo || ctx.hcrImo)))

/-- The answer of the first row whose test holds, as R60 says the tests are made; `other` where none does. -/
def firstHolds (other : Route) : List (Bool × Route) → Route
  | [] => other
  | (test, answer) :: rows => if test then answer else firstHolds other rows

/-- The rows of the printed pseudocode in their order (R63), each test written out whole, the level among them. The
seventh and eighth rows of EL1 are as the source prints them. -/
def printedRows (haveEl3 : Bool) (c : Ctx) : List (Bool × Route) :=
  [ (c.el == .el0, .trap .undef),
    (c.el == .el1 && c.el2Enabled && !c.el2A32 && c.hstrEl2T12, .trap .el2A64),
    (c.el == .el1 && c.el2Enabled && c.el2A32 && c.hstrT12, .trap .hyp),
    (c.el == .el1 && c.el2Enabled && !c.el2A32 && c.ichHcrEl2Tc, .trap .el2A64),
    (c.el == .el1 && c.el2Enabled && c.el2A32 && c.ichHcrTc, .trap .hyp),
    (c.el == .el1 && c.el2Enabled && !c.el2A32 && c.hcrEl2Fmo, .register .icv),
    (c.el == .el1 && c.el2Enabled && !c.el2A32 && c.hcrEl2Imo, .register .icv),
    (c.el == .el1 && c.el2Enabled && !c.el2A32 && c.hcrFmo, .register .icv),
    (c.el == .el1 && c.el2Enabled && !c.el2A32 && c.hcrImo, .register .icv),
    (c.el == .el1 && haveEl3 && !c.el3A32 && c.scrEl3Irq && c.scrEl3Fiq, .trap .el3A64),
    (c.el == .el1 && haveEl3 && c.el3A32 && !c.isMonitor && c.scrIrq && c.scrFiq, .trap .monitor),
    (c.el == .el1 && haveEl3 && !c.scrNs, .register .iccS),
    (c.el == .el1 && haveEl3 && c.scrNs, .register .iccNs),
    (c.el == .el1, .register .icc),
    (c.el == .el2 && !c.iccHsreSre, .trap .undef),
    (c.el == .el2 && haveEl3 && !c.el3A32 && c.scrEl3Irq && c.scrEl3Fiq, .trap .el3A64),
    (c.el == .el2 && haveEl3 && c.el3A32 && c.scrIrq && c.scrFiq, .trap .monitor),
    (c.el == .el2 && haveEl3, .register .iccNs),
    (c.el == .el2, .register .icc),
    (c.el == .el3 && !c.iccMsreSre, .trap .undef),
    (c.el == .el3 && !c.scrNs, .register .iccS) ]

/-- The chain as the source prints it (R63); the one answer left is `ICC_CTLR_NS` at EL3. -/
def printedChain (haveEl3 : Bool) (c : Ctx) : Route := firstHolds (.register .iccNs) (printedRows haveEl3 c)

/-- What the outcome of a trapped access records, written out: direction, `t`, the five encoding fields "15, 0, 12, 12,
4" and the pc (R91, D11). -/
def recordOf (i : Instr) (s : State) : AccessRecord :=
  { dir := i.dir, t := i.rt, addr := { coproc := 15, opc1 := 0, crn := 12, crm := 12, opc2 := 4 }, pc := s.pc }

/-- What no step of a run changes: the configuration (R5), the context (R24, D14), and the program and where it
stands (R47, R115). -/
structure SameRun (s s' : State) : Prop where
  cfg : s'.cfg = s.cfg
  ctx : s'.ctx = s.ctx
  base : s'.base = s.base
  program : s'.program = s.program

/-- `k` steps of a run, stopping where R115 says a run stops. -/
def runSteps : Nat → State → Host.Outcome State Fault Refusal
  | 0, s => .next s
  | k + 1, s =>
    match step s with
    | .next s' => runSteps k s'
    | .fault f => .fault f
    | .refused r => .refused r

/-- What holds of every state of a run of a program shorter than the address space. -/
structure RunInv (s : State) : Prop where
  /-- the configuration is one of this hardware (R17) -/
  cfg_admitted : configAdmitted s.cfg = true
  /-- the context is one that can occur (R25) -/
  ctx_admitted : s.ctx.admitted s.cfg = true
  /-- each place and the end have an address of their own (R115); a run may still cross the top of the address space
  (log 25) -/
  fits : s.program.length < 2 ^ 30
  /-- `pc` is `base + 4*k` for a `k` up to `n` (R115) -/
  on_place : s.onPlace = true
  in_run : s.place ≤ s.program.length
  /-- with immediate effect no old value stays visible (R45) -/
  settled : s.cfg.sync = .immediate → s.icv.eoimode.old = [] ∧ s.icv.cbpr.old = []
  /-- a field that was never written has no old value: "the only thing that makes it `Known` is a write" (R20, R21) -/
  eoimode_unwritten : s.icv.eoimode.now = .unknown → s.icv.eoimode.old = []
  cbpr_unwritten : s.icv.cbpr.now = .unknown → s.icv.cbpr.old = []
  /-- EOImode and CBPR are written together (R43) -/
  together : s.icv.eoimode.old.length = s.icv.cbpr.old.length

end Sys2Proof.Machine
end

