-- ==== Sys2Proof/Certificates/Slice0/Obligations.lean ====
section
/-!
DEFINITION. The statements for the provers. Each docstring names the rules of spec/ it states or rests on.

A general register is given by its number `t` and the index `i : Fin 15` with `t.toNat = i`, that is by every
`t` of 0..14 (R27, R56); `t = 15` is stated apart (`OnlyRegisterFifteenIsRefused`).
-/
open Sys2Proof Sys2Proof.Machine

/-! ### Encoding -/

/-- R52 to R56: in both instruction sets the decoder accepts exactly the words the encoder writes for an instruction
with `t` in 0..14, and reads that instruction from them; in T32 only outside any conditional block. -/
def Obligations.DecodeAcceptsExactlyTheEncodings : Prop :=
  ∀ (iset : ISet) (block : CondBlock) (w : Word) (i : Instr),
    decode iset block w = .ok i ↔ (iset = .t32 → block = .outside) ∧ i.wf = true ∧ encode i = w

/-- R54 to R56, by the masks of R53: a conditional form (in A32 a condition other than always, in T32 a place inside
a conditional block), `t = 15` in the unconditional form, and every other word, each under the name the spec gives it.
That T32 words with other top bits are not in scope, and which of two reasons is named, is the model's reading
(log 16). -/
def Obligations.DecodeRefusesEveryOtherWordByName : Prop :=
  ∀ (iset : ISet) (block : CondBlock) (w : Word),
    (decode iset block w = .error .registerFifteen ↔
      (iset = .t32 → block = .outside) ∧ w &&& 0xFFEFFFFF = 0xEE0CFF9C) ∧
    (decode iset block w = .error .conditionalForm ↔
      (iset = .a32 ∧ w &&& 0x0FEF0FFF = 0x0E0C0F9C ∧ w &&& 0xF0000000 ≠ 0xE0000000) ∨
      (iset = .t32 ∧ w &&& 0xFFEF0FFF = 0xEE0C0F9C ∧ block = .inside)) ∧
    (decode iset block w = .error .notInScope ↔
      w &&& 0x0FEF0FFF ≠ 0x0E0C0F9C ∨ (iset = .t32 ∧ w &&& 0xF0000000 ≠ 0xE0000000))

/-- R53, R54: words written out from the spec's bit pattern (95_test_vectors.md V-D1 to V-D8, V-D12). -/
def Obligations.SpecWordsDecode : Prop :=
  decode .a32 .outside 0xEE1C0F9C = .ok (.mrc 0) ∧ decode .t32 .outside 0xEE1CEF9C = .ok (.mrc 14) ∧
    decode .a32 .outside 0xEE0C1F9C = .ok (.mcr 1) ∧ decode .a32 .outside 0xEE1CFF9C = .error .registerFifteen ∧
    decode .a32 .outside 0xEE1C0FBC = .error .notInScope ∧ decode .a32 .outside 0x0E1C0F9C = .error .conditionalForm

/-- R53 to R55: a T32 stream decodes to an instruction and a rest exactly when it is that instruction's two halfwords
and that rest, outside any conditional block. -/
def Obligations.HalfwordStreamDecodesExactly : Prop :=
  ∀ (block : CondBlock) (hs rest : List Half) (i : Instr),
    decodeHalfwords block hs = .ok (i, rest) ↔ block = .outside ∧ i.wf = true ∧ hs = encodeHalfwords i ++ rest

/-- R56: `t` in 0..14 is never refused, `t = 15` always is, in every state. -/
def Obligations.OnlyRegisterFifteenIsRefused : Prop :=
  ∀ (i : Instr) (s : State) (r : Refusal),
    exec i s = .refused r ↔ i.rt = 15 ∧ r = .instruction .registerFifteen

/-! ### Routing -/

/-- R63: read literally, the route is the chain the source prints, row by row. -/
def Obligations.LiteralRouteIsThePrintedChain : Prop :=
  ∀ (cfg : Cfg) (ctx : Ctx), cfg.hcrRows = .literal → route cfg ctx = printedChain cfg.haveEl3 ctx

/-- R60, D2: the two readings of rows E1.7 and E1.8 agree where EL2 is using AArch64 and the AArch32-named bits equal
the AArch64-named ones; read literally, an EL1 access never reaches ICV_CTLR with EL2 using AArch32. -/
def Obligations.HcrRowReadingsCompared : Prop :=
  ∀ (cfg : Cfg) (ctx : Ctx),
    (ctx.el2A32 = false → ctx.hcrFmo = ctx.hcrEl2Fmo → ctx.hcrImo = ctx.hcrEl2Imo →
      route { cfg with hcrRows := .corrected } ctx = route { cfg with hcrRows := .literal } ctx) ∧
    (ctx.el2A32 = true → route { cfg with hcrRows := .literal } ctx ≠ .register .icv)

/-- R65 (a) to (f); (c) over the contexts R25 admits, since EL3 without EL3 reaches a bank in the chain itself. -/
def Obligations.RouteConsequences : Prop :=
  ∀ (cfg : Cfg) (ctx : Ctx),
    (cfg.hcrRows = .corrected → (route cfg ctx = .register .icv ↔
      ctx.el = .el1 ∧ ctx.el2Enabled = true ∧ ctx.t12 = false ∧ ctx.tc = false ∧ ctx.redirected = true)) ∧
    (ctx.el ≠ .el1 → route cfg ctx ≠ .register .icv) ∧
    (ctx.admitted cfg = true →
      (route cfg ctx = .register .icc → cfg.haveEl3 = false) ∧
      ((route cfg ctx = .register .iccS ∨ route cfg ctx = .register .iccNs ∨ route cfg ctx = .trap .el3A64 ∨
        route cfg ctx = .trap .monitor) → cfg.haveEl3 = true)) ∧
    (ctx.el = .el1 → ctx.el2Enabled = false →
      route cfg ctx ≠ .trap .el2A64 ∧ route cfg ctx ≠ .trap .hyp ∧ route cfg ctx ≠ .register .icv) ∧
    (route cfg ctx = .trap .el2A64 → ctx.el2A32 = false) ∧
    (route cfg ctx = .trap .hyp → ctx.el2A32 = true) ∧
    (route cfg ctx = .trap .el3A64 → ctx.el3A32 = false) ∧
    (route cfg ctx = .trap .monitor → ctx.el3A32 = true) ∧
    (ctx.el = .el1 → route cfg ctx ≠ .trap .undef)

/-- R96: at EL1, where a row of EL2 holds (trap or redirection), nothing of EL3 matters: whether it exists, what it
uses, its SCR bits, the bank, Monitor mode. -/
def Obligations.El2LeversShieldFromEl3 : Prop :=
  ∀ (cfg : Cfg) (ctx : Ctx) (have3 a32 irq64 fiq64 irq32 fiq32 ns mon : Bool),
    ctx.el = .el1 → el2Lever cfg ctx = true →
      route { cfg with haveEl3 := have3 }
        { ctx with
          el3A32 := a32, scrEl3Irq := irq64, scrEl3Fiq := fiq64, scrIrq := irq32, scrFiq := fiq32, scrNs := ns,
          isMonitor := mon } = route cfg ctx

/-- R60, R64: whether an access completes depends on context and configuration only: not on the instruction, on `t`,
on a register's content or on the pc. -/
def Obligations.CompletionDependsOnContextOnly : Prop :=
  ∀ (i j : Instr) (s s' : State), i.wf = true → j.wf = true → s'.cfg = s.cfg → s'.ctx = s.ctx →
    ((∃ n, exec i s = .next n) ↔ ∃ n, exec j s' = .next n)

/-! ### Outcomes -/

/-- R90: `Undefined()` at EL0 always, at EL2 with `ICC_HSRE.SRE == 0`, at EL3 with `ICC_MSRE.SRE == 0`, and nowhere
else. -/
def Obligations.UndefinedOutcome : Prop :=
  ∀ (i : Instr) (s : State) (p : Word),
    exec i s = .fault (.undefined p) ↔ i.wf = true ∧ p = s.pc ∧
      (s.ctx.el = .el0 ∨ (s.ctx.el = .el2 ∧ s.ctx.iccHsreSre = false) ∨
        (s.ctx.el = .el3 ∧ s.ctx.iccMsreSre = false))

/-- R91: the trap to EL2 using AArch64, its causes and its record. -/
def Obligations.AArch64El2TrapOutcome : Prop :=
  ∀ (i : Instr) (s : State) (code : Nat) (a : AccessRecord),
    exec i s = .fault (.sysAccessTrapA64 .el2 code a) ↔ i.wf = true ∧ code = 0x03 ∧ a = recordOf i s ∧
      s.ctx.el = .el1 ∧ s.ctx.el2Enabled = true ∧ s.ctx.el2A32 = false ∧
      (s.ctx.hstrEl2T12 = true ∨ s.ctx.ichHcrEl2Tc = true)

/-- R92: the trap to EL2 using AArch32, its causes and its record. -/
def Obligations.HypTrapOutcome : Prop :=
  ∀ (i : Instr) (s : State) (code : Nat) (a : AccessRecord),
    exec i s = .fault (.hypTrap code a) ↔ i.wf = true ∧ code = 0x03 ∧ a = recordOf i s ∧
      s.ctx.el = .el1 ∧ s.ctx.el2Enabled = true ∧ s.ctx.el2A32 = true ∧
      (s.ctx.hstrT12 = true ∨ s.ctx.ichHcrTc = true)

/-- R93: the trap to EL3 using AArch64, its causes and its record. -/
def Obligations.AArch64El3TrapOutcome : Prop :=
  ∀ (i : Instr) (s : State) (code : Nat) (a : AccessRecord),
    exec i s = .fault (.sysAccessTrapA64 .el3 code a) ↔ i.wf = true ∧ code = 0x03 ∧ a = recordOf i s ∧
      s.cfg.haveEl3 = true ∧ s.ctx.el3A32 = false ∧ s.ctx.scrEl3Irq = true ∧ s.ctx.scrEl3Fiq = true ∧
      ((s.ctx.el = .el1 ∧ el2Lever s.cfg s.ctx = false) ∨ (s.ctx.el = .el2 ∧ s.ctx.iccHsreSre = true))

/-- The trap to Monitor mode. Its causes are R94's. R94 lists no record: that it holds direction, `t`, the five fields
and the pc is D11's list, which the model takes (log 11, DESIGN CHOICE). -/
def Obligations.MonitorTrapOutcome : Prop :=
  ∀ (i : Instr) (s : State) (a : AccessRecord),
    exec i s = .fault (.monitorTrap a) ↔ i.wf = true ∧ a = recordOf i s ∧
      s.cfg.haveEl3 = true ∧ s.ctx.el3A32 = true ∧ s.ctx.scrIrq = true ∧ s.ctx.scrFiq = true ∧
      ((s.ctx.el = .el1 ∧ el2Lever s.cfg s.ctx = false ∧ s.ctx.isMonitor = false) ∨
        (s.ctx.el = .el2 ∧ s.ctx.iccHsreSre = true))

/-- R95: neither access is ever UNPREDICTABLE. -/
def Obligations.AccessIsNeverUnpredictable : Prop :=
  ∀ (s : State) (what : UnpredictableEvent), step s ≠ .fault (.unpredictable what)

/-! ### The two instructions -/

/-- R61, R22, R28: `MRC(t)` routed to ICV_CTLR completes; `x[t]` holds the configured fields and, for EOImode and
CBPR, the held bit where it is `Known` and some bit where it is `Unknown`; the pc moves by 4, nothing else changes
but the model's count of draws. -/
def Obligations.MrcReadsIcvCtlr : Prop :=
  ∀ (s : State) (t : BitVec 4) (i : Fin 15), t.toNat = i → route s.cfg s.ctx = .register .icv →
    ∃ (e c : BitVec 1) (n : Nat),
      (∀ b, s.icv.eoimode.now = .known b → e = b) ∧ (∀ b, s.icv.cbpr.now = .known b → c = b) ∧ s.draws ≤ n ∧
      exec (.mrc t) s =
        .next { s with x := s.x.set i (icvWord s.cfg e c), pc := s.pc + 4, draws := n }

/-- R10 to R21: the fields of the word such a read returns: zero in every reserved place, the configured value in
every read-only field, the held bit in a `Known` RW field. -/
def Obligations.IcvReadLayout : Prop :=
  ∀ (s s' : State) (t : BitVec 4) (i : Fin 15), t.toNat = i → route s.cfg s.ctx = .register .icv →
    exec (.mrc t) s = .next s' →
      s'.readX i &&& 0xFFF300FC = 0 ∧
      ∃ e c, (∀ b, s.icv.eoimode.now = .known b → e = b) ∧ (∀ b, s.icv.cbpr.now = .known b → c = b) ∧
        icvView (s'.readX i) =
          { res31To20 := 0, extRange := s.cfg.extRange, rss := s.cfg.rss, res17To16 := 0, a3v := s.cfg.a3v,
            seis := s.cfg.seis, idBits := s.cfg.idBits, priBits := s.cfg.priBits, res7To2 := 0, eoimode := e,
            cbpr := c }

/-- R61, R26: `MRC(t)` routed to a physical target completes with some value in `x[t]`. -/
def Obligations.MrcReadsPhysicalTarget : Prop :=
  ∀ (s : State) (t : BitVec 4) (i : Fin 15) (target : Target), t.toNat = i → target ≠ .icv →
    route s.cfg s.ctx = .register target →
      ∃ v : Word, exec (.mrc t) s =
        .next { s with x := s.x.set i v, pc := s.pc + 4, draws := s.draws + 1 }

/-- R23: `MCR(t)` routed to ICV_CTLR completes for every content of `x[t]`; EOImode is bit 1 of it and CBPR bit 0,
both `Known` at once; the pc moves by 4 and nothing else changes. What a field keeps for indirect uses is
`McrOldValuesBySync`. -/
def Obligations.McrWritesIcvCtlr : Prop :=
  ∀ (s : State) (t : BitVec 4) (i : Fin 15), t.toNat = i → route s.cfg s.ctx = .register .icv →
    ∃ (e c : RwField),
      exec (.mcr t) s = .next { s with icv := { eoimode := e, cbpr := c }, pc := s.pc + 4 } ∧
      e.now = .known ((s.readX i).extractLsb' 1 1) ∧ c.now = .known ((s.readX i).extractLsb' 0 1)

/-- R45: after `MCR` routed to ICV_CTLR, under `immediate` no old value stays visible to indirect uses; under
`draw_until_sync` the value before the write does. That those from before earlier writes do too is the model's reading
(log 6). -/
def Obligations.McrOldValuesBySync : Prop :=
  ∀ (s s' : State) (t : BitVec 4), route s.cfg s.ctx = .register .icv → exec (.mcr t) s = .next s' →
    (s.cfg.sync = .immediate → s'.icv.eoimode.old = [] ∧ s'.icv.cbpr.old = []) ∧
    (s.cfg.sync = .drawUntilSync →
      s'.icv.eoimode.old = s.icv.eoimode.now :: s.icv.eoimode.old ∧
      s'.icv.cbpr.old = s.icv.cbpr.now :: s.icv.cbpr.old)

/-- R62, R26: `MCR(t)` routed to a physical target completes and leaves that one target with some value. -/
def Obligations.McrWritesPhysicalTarget : Prop :=
  ∀ (s : State) (t : BitVec 4) (i : Fin 15), t.toNat = i → ∃ v : Word,
    (route s.cfg s.ctx = .register .icc → exec (.mcr t) s =
      .next { s with phys := { s.phys with iccCtlr := v }, pc := s.pc + 4, draws := s.draws + 1 }) ∧
    (route s.cfg s.ctx = .register .iccS → exec (.mcr t) s =
      .next { s with phys := { s.phys with iccCtlrS := v }, pc := s.pc + 4, draws := s.draws + 1 }) ∧
    (route s.cfg s.ctx = .register .iccNs → exec (.mcr t) s =
      .next { s with phys := { s.phys with iccCtlrNs := v }, pc := s.pc + 4, draws := s.draws + 1 })

/-- R61: an `MRC(t)` that completes leaves every register but `x[t]` and the pc, ICV_CTLR, the physical targets, the
context, the configuration and the program as they were. The machine has no memory and no flag (R29, R40). -/
def Obligations.MrcFrame : Prop :=
  ∀ (s s' : State) (t : BitVec 4), exec (.mrc t) s = .next s' →
    (∀ j : Fin 15, t.toNat ≠ j → s'.readX j = s.readX j) ∧ s'.icv = s.icv ∧ s'.phys = s.phys ∧ SameRun s s'

/-- R62: an `MCR(t)` that completes leaves every general register, the context, the configuration and the program as
they were; "the write to ICV_CTLR never changes any ICC_CTLR target and a write to an ICC_CTLR target never changes
EOImode or CBPR". -/
def Obligations.McrFrame : Prop :=
  ∀ (s s' : State) (t : BitVec 4), exec (.mcr t) s = .next s' →
    s'.x = s.x ∧ SameRun s s' ∧
    (route s.cfg s.ctx = .register .icv → s'.phys = s.phys ∧ s'.draws = s.draws) ∧
    (route s.cfg s.ctx ≠ .register .icv → s'.icv = s.icv)

/-- R62, R45, R113: a write of ICV_CTLR and a read of it after: the read returns the configured fields and bits 1 and
0 of the written word, whatever CFG.SYNC is and (R102, "not banked") whatever `SCR.NS` becomes in between. -/
def Obligations.ReadAfterWrite : Prop :=
  ∀ (s : State) (t u : BitVec 4) (i j : Fin 15) (ns : Bool), t.toNat = i → u.toNat = j →
    route s.cfg s.ctx = .register .icv →
      ∃ s1 s2, exec (.mcr t) s = .next s1 ∧
        exec (.mrc u) { s1 with ctx := { s1.ctx with scrNs := ns } } = .next s2 ∧
        s2.readX j = cfgWord s.cfg ||| (s.readX i &&& 0x3) ∧ s2.draws = s.draws

/-- R62: "writing back a value just read changes nothing once both fields are `Known`": the held values stay. -/
def Obligations.WriteBackKeepsTheFields : Prop :=
  ∀ (s : State) (t : BitVec 4) (i : Fin 15) (e c : BitVec 1), t.toNat = i → route s.cfg s.ctx = .register .icv →
    s.icv.eoimode.now = .known e → s.icv.cbpr.now = .known c →
      ∃ s1 s2, exec (.mrc t) s = .next s1 ∧ exec (.mcr t) s1 = .next s2 ∧
        s2.icv.eoimode.now = .known e ∧ s2.icv.cbpr.now = .known c

/-! ### The machine

Where a statement below speaks of `base + 4*k`, of a place or of the end of a program, the sum is modulo 2^32. That a
run which crosses the top of the address space goes on there is the model's choice (log 25, DESIGN CHOICE): R28 says
that wrap-around is not in the source. -/

/-- R115: where `pc` is `base + 4*k` and the text of `I_k` decodes, the step is that instruction's meaning and
nothing else; past the top of the address space by log 25. -/
def Obligations.StepRunsTheDecodedInstruction : Prop :=
  ∀ (s : State) (k : Nat) (c : CodeWord) (i : Instr), configAdmitted s.cfg = true →
    (s.pc - s.base).toNat = 4 * k → s.program[k]? = some c → decode s.cfg.iset c.block c.word = .ok i →
      step s = exec i s

/-- R17, R54, R115: a reserved IDbits value stops the run before anything else; a word the decoder refuses stops it
under the decoder's name; `pc = base + 4*n` is its end and no other address is. How the end is reported is the model's
form (log 5), and an end past the top of the address space is log 25. -/
def Obligations.StepStopsWhereTheSpecRefuses : Prop :=
  ∀ (s : State),
    (∀ v, step s = .refused (.reservedIdBits v) ↔ v = s.cfg.idBits ∧ v ≠ 0b000 ∧ v ≠ 0b001) ∧
    (∀ (k : Nat) (c : CodeWord) (why : InstrRefusal), configAdmitted s.cfg = true → (s.pc - s.base).toNat = 4 * k →
      s.program[k]? = some c → decode s.cfg.iset c.block c.word = .error why → step s = .refused (.instruction why)) ∧
    (configAdmitted s.cfg = true → s.program.length < 2 ^ 30 →
      (step s = .refused .endOfProgram ↔ s.pc = s.base + BitVec.ofNat 32 (4 * s.program.length)))

/-- R55: "Any other condition is refused by name": a step at an instruction in scope in a form other than the
unconditional one is refused as a conditional form, whatever the context and `t`. In A32 the form is the word's
condition, wherever it stands; in T32 it is the place of the instruction, which is part of the program's text (log
16). Past the top of the address space by log 25. -/
def Obligations.StepRefusesConditionalForms : Prop :=
  ∀ (s : State) (k : Nat) (c : CodeWord), configAdmitted s.cfg = true → (s.pc - s.base).toNat = 4 * k →
    s.program[k]? = some c →
      (s.cfg.iset = .a32 → c.word &&& 0x0FEF0FFF = 0x0E0C0F9C →
        (step s = .refused (.instruction .conditionalForm) ↔ c.word &&& 0xF0000000 ≠ 0xE0000000)) ∧
      (s.cfg.iset = .t32 → c.word &&& 0xFFEF0FFF = 0xEE0C0F9C →
        (step s = .refused (.instruction .conditionalForm) ↔ c.block = .inside))

/-- R5, R24, R28, R47: no step changes the configuration, the context or the program; a completed step moves the pc
by 4; the count of draws never falls. -/
def Obligations.StepKeepsTheRun : Prop :=
  ∀ s s' : State, step s = .next s' → SameRun s s' ∧ s'.pc = s.pc + 4 ∧ s.draws ≤ s'.draws

/-- R20, R21, R65, R101: a step leaves ICV_CTLR as it was, or it ran an `MCR` at EL1 with EL2 enabled that was
routed to it; then both fields are `Known`. So only a write makes a field `Known` and nothing makes it `Unknown`. -/
def Obligations.IcvChangesOnlyByVirtualisedWrite : Prop :=
  ∀ s s' : State, step s = .next s' → s'.icv = s.icv ∨
    (s.ctx.el = .el1 ∧ s.ctx.el2Enabled = true ∧ route s.cfg s.ctx = .register .icv ∧
      (∃ t, fetchInstr s = .ok (.mcr t)) ∧
      (∃ e, s'.icv.eoimode.now = .known e) ∧ ∃ c, s'.icv.cbpr.now = .known c)

/-- R26, R102, R101: which physical target a step can change, in a context R25 admits: without EL3 only ICC_CTLR;
with EL3 only the two banks, `_S` only from EL1 or EL3 with `SCR.NS == 0`; none from EL0. -/
def Obligations.PhysicalTargetsAreBanked : Prop :=
  ∀ s s' : State, s.ctx.admitted s.cfg = true → step s = .next s' →
    (s'.phys.iccCtlr ≠ s.phys.iccCtlr → s.cfg.haveEl3 = false ∧ s.ctx.el ≠ .el3) ∧
    (s'.phys.iccCtlrS ≠ s.phys.iccCtlrS →
      s.cfg.haveEl3 = true ∧ s.ctx.scrNs = false ∧ (s.ctx.el = .el1 ∨ s.ctx.el = .el3)) ∧
    (s'.phys.iccCtlrNs ≠ s.phys.iccCtlrNs →
      s.cfg.haveEl3 = true ∧ (s.ctx.el = .el2 ∨ s.ctx.scrNs = true)) ∧
    s.ctx.el ≠ .el0

/-- R17, R25, R28, R43, R45, R115: every step keeps what holds of the states of a run. That a field never written has
no old value, and that the old values pair up, is the model's reading of R45 (log 6); that a step across the top of the
address space is one of the run is its choice (log 25). -/
def Obligations.EveryStepKeepsTheRunInvariant : Prop :=
  ∀ s s' : State, RunInv s → step s = .next s' → RunInv s'

/-- R110: it holds straight after reset, for every launch premise R17 and R25 admit and every program of fewer than
2^30 instructions, one that crosses the top of the address space among them (log 25). -/
def Obligations.LaunchMeetsTheRunInvariant : Prop :=
  ∀ (cfg : Cfg) (ctx : Ctx) (x : Vector Word 15) (base : Word) (program : List CodeWord) (phys : Phys) (draws : Nat),
    configAdmitted cfg = true → ctx.admitted cfg = true → program.length < 2 ^ 30 →
      RunInv (State.launch cfg ctx x base program phys draws)

/-- It holds of State.reset; the launch premises there are the model's choice (log 1 to 8). -/
def Obligations.ResetMeetsTheRunInvariant : Prop := RunInv State.reset

/-- R110: after reset EOImode and CBPR are `Unknown` and the pc is the address of the first instruction; and so in
State.reset, where the rest is the model's choice (log 1 to 8). -/
def Obligations.ResetLeavesTheFieldsUnknown : Prop :=
  (∀ (cfg : Cfg) (ctx : Ctx) (x : Vector Word 15) (base : Word) (program : List CodeWord) (phys : Phys) (draws : Nat),
    let s := State.launch cfg ctx x base program phys draws
    s.icv.eoimode.now = .unknown ∧ s.icv.cbpr.now = .unknown ∧ s.pc = base) ∧
  State.reset.icv.eoimode.now = .unknown ∧ State.reset.icv.cbpr.now = .unknown

/-- R115: "With one agent and no loop every run has at most `n` steps": a bound on whole runs, from any state, not only
the start; of runs across the top of the address space by log 25. -/
def Obligations.RunEndsWithinItsLength : Prop :=
  ∀ s s' : State, s.program.length < 2 ^ 30 →
    runSteps (s.program.length + 1) s ≠ .next s'

/-- R115, R28: a program of instructions with `t` in 0..14, loaded where the run stands in a configuration of this
hardware and a context whose route reaches a register, runs to its end `base + 4*n`, which is the final state. That
the final state is one where `step` answers the refusal `endOfProgram` is how the model reports it (log 5, DESIGN
CHOICE); that a program across the top of the address space runs on at address 0 is its choice too (log 25). -/
def Obligations.ProgramRunsToItsEnd : Prop :=
  ∀ (s : State) (is : List Instr) (target : Target), (∀ i ∈ is, i.wf = true) → is.length < 2 ^ 30 →
    configAdmitted s.cfg = true → route s.cfg s.ctx = .register target →
      ∃ s' : State, runSteps is.length (s.loadProgram is) = .next s' ∧
        s'.pc = s.pc + BitVec.ofNat 32 (4 * is.length) ∧ step s' = .refused .endOfProgram

/-- R26, D10: no access learns what a physical target holds: two states that differ only in the targets stop alike,
or go on to states that agree in everything else. -/
def Obligations.PhysicalTargetsAreOpaque : Prop :=
  ∀ (i : Instr) (s : State) (p : Phys),
    (∃ f, exec i s = .fault f ∧ exec i { s with phys := p } = .fault f) ∨
    (∃ r, exec i s = .refused r ∧ exec i { s with phys := p } = .refused r) ∨
    (∃ a b, exec i s = .next a ∧ exec i { s with phys := p } = .next b ∧ b = { a with phys := b.phys })

/-! ### Effects of the fields -/

/-- R80. -/
def Obligations.EoirWriteEffectsByEoimode : Prop :=
  (∀ e, e ∈ eoirWriteEffects 0 ↔ e = .priorityDrop ∨ e = .deactivate) ∧
    ∀ e, e ∈ eoirWriteEffects 1 ↔ e = .priorityDrop

/-- R81. -/
def Obligations.DirAccessByEoimode : Prop :=
  dirAccess 0 = .error (.unpredictable .icvDirAccess) ∧ dirAccess 1 = .ok [.deactivate]

/-- R82. -/
def Obligations.PreemptionRegisterByCbpr : Prop :=
  preemptionBpr 0 .group0 = .bpr0 ∧ preemptionBpr 0 .group1 = .bpr1 ∧
    ∀ g, preemptionBpr 1 g = .bpr0

/-- What a read of ICV_BPR1 returns. With CBPR = 1: "ICV_BPR0 plus one, saturated to 0b111" (R83). The CBPR = 0 arm,
the register's own value, is the spec's own inference: "not stated by the source in so many words" (R83, derived
there from R82). -/
def Obligations.Bpr1ReadByCbpr : Prop :=
  ∀ bpr0 stored : BitVec 3,
    (bpr1Read 1 bpr0 stored).toNat = min (bpr0.toNat + 1) 7 ∧ bpr1Read 0 bpr0 stored = stored

/-- R84, the two arms as the spec writes them; with CBPR = 0 the new value is what ICV_BPR1's own write rule makes
of the written one, here any value. -/
def Obligations.Bpr1WriteByCbpr : Prop :=
  ∀ stored written : BitVec 3, bpr1Write 1 stored written = stored ∧ bpr1Write 0 stored written = written

/-- R85, R17, R18: the three computations of R85 that R83 does not state: 1 to 8 priority bits, `2^PriBits` levels,
and 16 or 24 identifier bits with no value at the other six arguments. -/
def Obligations.IdentificationCounts : Prop :=
  (∀ cfg : Cfg, priBitCount cfg = cfg.priBits.toNat + 1 ∧ 1 ≤ priBitCount cfg ∧ priBitCount cfg ≤ 8 ∧
    priLevels cfg = 2 ^ priBitCount cfg ∧ (priMin5 cfg = true ↔ 32 ≤ priLevels cfg)) ∧
  idBitCount 0b000 = some 16 ∧ idBitCount 0b001 = some 24 ∧
    ∀ v, idBitCount v = none ↔ v ≠ 0b000 ∧ v ≠ 0b001

/-- R86: both bounds included. -/
def Obligations.DeliveryByExtRange : Prop :=
  ∀ (extRange : BitVec 1) (intid : Nat),
    (deliverIntid extRange intid = .error (.unpredictable .extendedIntid) ↔
      extRange = 0 ∧ 1024 ≤ intid ∧ intid ≤ 8191) ∧
    (deliverIntid extRange intid = .ok .requiresDeactivation ↔ extRange = 1 ∧ 1024 ≤ intid ∧ intid ≤ 8191) ∧
    (deliverIntid extRange intid = .ok .accepted ↔ intid < 1024 ∨ 8191 < intid)

/-- R87: what RSS and A3V let an SGI name, and that anything else is refused. -/
def Obligations.SgiAffinityByRssAndA3v : Prop :=
  (∀ aff0, (sgiAff0Supported 0 aff0 = true ↔ aff0 ≤ 15) ∧ (sgiAff0Supported 1 aff0 = true ↔ aff0 ≤ 255)) ∧
  (∀ aff3, (sgiAff3Supported 0 aff3 = true ↔ aff3 = 0) ∧ sgiAff3Supported 1 aff3 = true) ∧
  ∀ (cfg : Cfg) (aff0 aff3 : Nat), sgiRequest cfg aff0 aff3 = .error .sgiUnsupported ↔
    sgiAff0Supported cfg.rss aff0 = false ∨ sgiAff3Supported cfg.a3v aff3 = false

/-- R45, R112: with immediate effect, after one `MCR` routed to ICV_CTLR every use of the fields sees the written
bits; with bit 1 set an access to ICV_DIR deactivates and is not UNPREDICTABLE. -/
def Obligations.UsesSeeAnImmediateWrite : Prop :=
  ∀ (s : State) (t : BitVec 4) (i : Fin 15), t.toNat = i → route s.cfg s.ctx = .register .icv →
    s.cfg.sync = .immediate →
      ∃ s1, exec (.mcr t) s = .next s1 ∧
        s1.useEoimode.1 = (s.readX i).extractLsb' 1 1 ∧ s1.useCbpr.1 = (s.readX i).extractLsb' 0 1 ∧
        ((s.readX i).extractLsb' 1 1 = 1 → s1.dirAccess.1 = .ok [.deactivate])

/-- R45: under draw_until_sync a use after the first write of a `Known` field sees the old bit or the new one, and
after a synchronisation event the new one. -/
def Obligations.UsesSeeOldOrNewUntilSync : Prop :=
  ∀ (s : State) (t : BitVec 4) (i : Fin 15) (e c : BitVec 1), t.toNat = i →
    route s.cfg s.ctx = .register .icv → s.cfg.sync = .drawUntilSync →
    s.icv.eoimode = { now := .known e, old := [] } → s.icv.cbpr = { now := .known c, old := [] } →
      ∃ s1, exec (.mcr t) s = .next s1 ∧
        (s1.useEoimode.1 = e ∨ s1.useEoimode.1 = (s.readX i).extractLsb' 1 1) ∧
        (s1.useCbpr.1 = c ∨ s1.useCbpr.1 = (s.readX i).extractLsb' 0 1) ∧
        s1.synchronise.useEoimode.1 = (s.readX i).extractLsb' 1 1 ∧
        s1.synchronise.useCbpr.1 = (s.readX i).extractLsb' 0 1

/-- R80 to R84, R89: what the fields do is a function of one use of a field, and such a use changes nothing of the
machine: an `Unknown` field stays `Unknown`. Only the model's count of draws moves. -/
def Obligations.FieldUsesChangeNothing : Prop :=
  ∀ (s : State) (g : Group) (bpr0 stored w : BitVec 3),
    (∃ n, s.draws < n ∧ s.eoirWrite.2 = { s with draws := n }) ∧
    (∃ n, s.draws < n ∧ s.dirAccess.2 = { s with draws := n }) ∧
    (∃ n, s.draws < n ∧ (s.preemptionBpr g).2 = { s with draws := n }) ∧
    (∃ n, s.draws < n ∧ (s.bpr1Read bpr0 stored).2 = { s with draws := n }) ∧
    (∃ n, s.draws < n ∧ (s.bpr1Write stored w).2 = { s with draws := n })
end

