-- ==== Sys2Proof/Laws/State.lean ====
section
/-!
SUPPORT. One lemma per field of State and per update: what each named update leaves alone and what it sets.
-/
namespace Sys2Proof.Machine

variable (s : State) (i j : Fin 15) (v w : Word) (n : Nat)

@[simp] theorem writeX_cfg : (s.writeX i v).cfg = s.cfg := rfl
@[simp] theorem writeX_ctx : (s.writeX i v).ctx = s.ctx := rfl
@[simp] theorem writeX_x : (s.writeX i v).x = s.x.set i v := rfl
@[simp] theorem writeX_pc : (s.writeX i v).pc = s.pc := rfl
@[simp] theorem writeX_base : (s.writeX i v).base = s.base := rfl
@[simp] theorem writeX_program : (s.writeX i v).program = s.program := rfl
@[simp] theorem writeX_icv : (s.writeX i v).icv = s.icv := rfl
@[simp] theorem writeX_phys : (s.writeX i v).phys = s.phys := rfl
@[simp] theorem writeX_draws : (s.writeX i v).draws = s.draws := rfl

@[simp] theorem advancePc_cfg : s.advancePc.cfg = s.cfg := rfl
@[simp] theorem advancePc_ctx : s.advancePc.ctx = s.ctx := rfl
@[simp] theorem advancePc_x : s.advancePc.x = s.x := rfl
@[simp] theorem advancePc_pc : s.advancePc.pc = s.pc + 4 := rfl
@[simp] theorem advancePc_base : s.advancePc.base = s.base := rfl
@[simp] theorem advancePc_program : s.advancePc.program = s.program := rfl
@[simp] theorem advancePc_icv : s.advancePc.icv = s.icv := rfl
@[simp] theorem advancePc_phys : s.advancePc.phys = s.phys := rfl
@[simp] theorem advancePc_draws : s.advancePc.draws = s.draws := rfl

@[simp] theorem draw_value : (s.draw n).1 = Config.draw n s.draws := rfl
@[simp] theorem draw_cfg : (s.draw n).2.cfg = s.cfg := rfl
@[simp] theorem draw_ctx : (s.draw n).2.ctx = s.ctx := rfl
@[simp] theorem draw_x : (s.draw n).2.x = s.x := rfl
@[simp] theorem draw_pc : (s.draw n).2.pc = s.pc := rfl
@[simp] theorem draw_base : (s.draw n).2.base = s.base := rfl
@[simp] theorem draw_program : (s.draw n).2.program = s.program := rfl
@[simp] theorem draw_icv : (s.draw n).2.icv = s.icv := rfl
@[simp] theorem draw_phys : (s.draw n).2.phys = s.phys := rfl
@[simp] theorem draw_draws : (s.draw n).2.draws = s.draws + 1 := rfl

@[simp] theorem writeIcv_cfg : (s.writeIcv w).cfg = s.cfg := rfl
@[simp] theorem writeIcv_ctx : (s.writeIcv w).ctx = s.ctx := rfl
@[simp] theorem writeIcv_x : (s.writeIcv w).x = s.x := rfl
@[simp] theorem writeIcv_pc : (s.writeIcv w).pc = s.pc := rfl
@[simp] theorem writeIcv_base : (s.writeIcv w).base = s.base := rfl
@[simp] theorem writeIcv_program : (s.writeIcv w).program = s.program := rfl
@[simp] theorem writeIcv_icv : (s.writeIcv w).icv = s.icv.write s.cfg.sync w := rfl
@[simp] theorem writeIcv_phys : (s.writeIcv w).phys = s.phys := rfl
@[simp] theorem writeIcv_draws : (s.writeIcv w).draws = s.draws := rfl

@[simp] theorem loadCode_cfg (cs : List CodeWord) : (s.loadCode cs).cfg = s.cfg := rfl
@[simp] theorem loadCode_ctx (cs : List CodeWord) : (s.loadCode cs).ctx = s.ctx := rfl
@[simp] theorem loadCode_x (cs : List CodeWord) : (s.loadCode cs).x = s.x := rfl
@[simp] theorem loadCode_pc (cs : List CodeWord) : (s.loadCode cs).pc = s.pc := rfl
@[simp] theorem loadCode_base (cs : List CodeWord) : (s.loadCode cs).base = s.pc := rfl
@[simp] theorem loadCode_program (cs : List CodeWord) : (s.loadCode cs).program = cs := rfl
@[simp] theorem loadCode_icv (cs : List CodeWord) : (s.loadCode cs).icv = s.icv := rfl
@[simp] theorem loadCode_phys (cs : List CodeWord) : (s.loadCode cs).phys = s.phys := rfl
@[simp] theorem loadCode_draws (cs : List CodeWord) : (s.loadCode cs).draws = s.draws := rfl

@[simp] theorem codeOf_word (i : Instr) : (codeOf i).word = encode i := rfl
@[simp] theorem codeOf_block (i : Instr) : (codeOf i).block = .outside := rfl
@[simp] theorem loadProgram_eq (is : List Instr) : s.loadProgram is = s.loadCode (is.map codeOf) := rfl

@[simp] theorem write_now (sync : Sync) (f : RwField) (b : BitVec 1) : (f.write sync b).now = .known b := by
  cases sync <;> rfl
@[simp] theorem write_immediate_old (f : RwField) (b : BitVec 1) : (f.write .immediate b).old = [] := rfl
@[simp] theorem write_drawUntilSync_old (f : RwField) (b : BitVec 1) :
    (f.write .drawUntilSync b).old = f.now :: f.old := rfl
@[simp] theorem icvWrite_eoimode (sync : Sync) (r : IcvCtlr) :
    (r.write sync w).eoimode = r.eoimode.write sync (eoimodeBit w) := rfl
@[simp] theorem icvWrite_cbpr (sync : Sync) (r : IcvCtlr) :
    (r.write sync w).cbpr = r.cbpr.write sync (cbprBit w) := rfl

/-- A register just written reads as the value written. -/
@[simp] theorem readX_writeX_self : (s.writeX i v).readX i = v := by simp [State.readX]

/-- The other registers read as before. -/
theorem readX_writeX_of_ne (h : i ≠ j) : (s.writeX i v).readX j = s.readX j := by
  have h' : (i : Nat) ≠ j := fun e => h (Fin.ext e)
  simp [State.readX, h']

end Sys2Proof.Machine
end

