-- ==== Sys2Proof/Laws/Ops.lean ====
section
/-!
SUPPORT. Each shared operation's spec, once: what naming a register, an access, a read and a write of a target can do.
-/
namespace Sys2Proof.Machine

/-- `t` names `x[i]` exactly when its number is `i`. -/
theorem gprIndex_eq_some_iff {t : BitVec 4} {i : Fin 15} : gprIndex t = some i ↔ t.toNat = i := by
  unfold gprIndex
  split
  · simp [Fin.ext_iff]
  · rename_i h
    simp only [reduceCtorEq, false_iff]
    omega

/-- `t` names no register exactly when it is 15. -/
theorem gprIndex_eq_none_iff {t : BitVec 4} : gprIndex t = none ↔ t = 15 := by
  revert t; decide

/-- A number other than 15 names a register. -/
theorem gprIndex_of_ne {t : BitVec 4} (h : t ≠ 15) : ∃ i, gprIndex t = some i := by
  cases e : gprIndex t with
  | none => exact absurd (gprIndex_eq_none_iff.mp e) h
  | some i => exact ⟨i, rfl⟩

variable {dir : Dir} {t : BitVec 4} {act : Target → Fin 15 → State → State} {s s' : State}

/-- An access answers a next state exactly when `t` names a register and the route reaches one. -/
theorem access_next_iff : access dir t act s = .next s' ↔
    ∃ i target, gprIndex t = some i ∧ route s.cfg s.ctx = .register target ∧ s' = (act target i s).advancePc := by
  unfold access
  cases gprIndex t with
  | none => simp
  | some i => cases h : route s.cfg s.ctx <;> simp [eq_comm]

/-- An access raises an outcome exactly when `t` names a register and the route is a trap. -/
theorem access_fault_iff {f : Fault} : access dir t act s = .fault f ↔
    t ≠ 15 ∧ ∃ trap, route s.cfg s.ctx = .trap trap ∧ f = takeTrap dir t s trap := by
  unfold access
  cases e : gprIndex t with
  | none => simp [gprIndex_eq_none_iff.mp e]
  | some i =>
    have : ¬t = 15#4 := fun h => by simp [gprIndex_eq_none_iff.mpr h] at e
    cases h : route s.cfg s.ctx <;> simp [this, eq_comm]

/-- An access is refused exactly for `t = 15`. -/
theorem access_refused_iff {r : Refusal} : access dir t act s = .refused r ↔
    t = 15 ∧ r = .instruction .registerFifteen := by
  unfold access
  cases e : gprIndex t with
  | none => simp [gprIndex_eq_none_iff.mp e, eq_comm]
  | some i =>
    have : ¬t = 15#4 := fun h => by simp [gprIndex_eq_none_iff.mpr h] at e
    cases h : route s.cfg s.ctx <;> simp [this]

@[simp] theorem fieldVal_known (b : BitVec 1) (s : State) : s.fieldVal (.known b) = (b, s) := rfl
@[simp] theorem fieldVal_unknown (s : State) : s.fieldVal .unknown = s.draw 1 := rfl

/-- Taking the value of a field moves nothing but the count of draws. -/
theorem fieldVal_state (f : FieldVal) (s : State) :
    ∃ n, s.draws ≤ n ∧ (s.fieldVal f).2 = { s with draws := n } := by
  cases f with
  | known b => exact ⟨s.draws, le_rfl, rfl⟩
  | unknown => exact ⟨s.draws + 1, Nat.le_succ _, rfl⟩

/-- A read of ICV_CTLR assembles the configured fields and one bit per RW field, the held one where it is `Known`;
nothing but the count of draws moves. -/
theorem readIcv_spec (s : State) : ∃ e c n,
    (∀ b, s.icv.eoimode.now = .known b → e = b) ∧ (∀ b, s.icv.cbpr.now = .known b → c = b) ∧ s.draws ≤ n ∧
      s.readIcv = (icvWord s.cfg e c, { s with draws := n }) := by
  unfold State.readIcv
  cases s.icv.eoimode.now <;> cases s.icv.cbpr.now <;>
    exact ⟨_, _, _, by simp, by simp, by simp; try omega, rfl⟩

/-- With both fields `Known` a read draws nothing. -/
theorem readIcv_known {s : State} {e c : BitVec 1} (he : s.icv.eoimode.now = .known e)
    (hc : s.icv.cbpr.now = .known c) : s.readIcv = (icvWord s.cfg e c, s) := by
  simp [State.readIcv, he, hc]

/-- A read of a target moves nothing but the count of draws. -/
theorem readTarget_state (s : State) (target : Target) :
    ∃ n, s.draws ≤ n ∧ (s.readTarget target).2 = { s with draws := n } := by
  cases target with
  | icv =>
    obtain ⟨e, c, n, _, _, hn, h⟩ := readIcv_spec s
    exact ⟨n, hn, by simp [State.readTarget, h]⟩
  | _ => exact ⟨s.draws + 1, Nat.le_succ _, rfl⟩

/-- A write routed to ICV_CTLR changes that register alone. -/
theorem writeTarget_icv (w : Word) (s : State) : s.writeTarget w .icv = s.writeIcv w := rfl

/-- A write to a target changes ICV_CTLR, or one physical target and the count of draws. -/
theorem writeTarget_cases (w : Word) (s : State) (target : Target) :
    (target = .icv ∧ s.writeTarget w target = s.writeIcv w) ∨
      (target ≠ .icv ∧ ∃ v, s.writeTarget w target = { s with phys := s.phys.put v target, draws := s.draws + 1 }) := by
  cases target with
  | icv => exact .inl ⟨rfl, rfl⟩
  | _ => exact .inr ⟨by decide, _, rfl⟩


end Sys2Proof.Machine
end

