-- ==== Sys2Proof/Laws/Access.lean ====
section
/-!
SUPPORT. What each of the two instructions does when it answers a next state.
-/
namespace Sys2Proof.Machine

/-- An `MRC` that completes wrote one register and moved the pc and the count of draws. -/
theorem execMrc_next {t : BitVec 4} {s s' : State} (h : execMrc t s = .next s') :
    ∃ (i : Fin 15) (v : Word) (n : Nat), t.toNat = i ∧ s.draws ≤ n ∧
      s' = { s with x := s.x.set i v, pc := s.pc + 4, draws := n } := by
  obtain ⟨i, target, hi, _, rfl⟩ := access_next_iff.mp h
  obtain ⟨n, hn, e⟩ := readTarget_state s target
  exact ⟨i, (s.readTarget target).1, n, gprIndex_eq_some_iff.mp hi, hn, by rw [e]; rfl⟩

/-- An `MCR` that completes wrote ICV_CTLR, or one physical target, and moved the pc and the count of draws. -/
theorem execMcr_next {t : BitVec 4} {s s' : State} (h : execMcr t s = .next s') :
    ∃ i : Fin 15, t.toNat = i ∧
      ((route s.cfg s.ctx = .register .icv ∧ s' = (s.writeIcv (s.readX i)).advancePc) ∨
        (∃ target v, target ≠ .icv ∧ route s.cfg s.ctx = .register target ∧
          s' = { s with phys := s.phys.put v target, pc := s.pc + 4, draws := s.draws + 1 })) := by
  obtain ⟨i, target, hi, hr, rfl⟩ := access_next_iff.mp h
  refine ⟨i, gprIndex_eq_some_iff.mp hi, ?_⟩
  rcases writeTarget_cases (s.readX i) s target with ⟨rfl, e⟩ | ⟨hne, v, e⟩
  · exact .inl ⟨hr, by rw [e]⟩
  · exact .inr ⟨target, v, hne, hr, by rw [e]; rfl⟩

end Sys2Proof.Machine
end

