-- ==== Sys2Proof/Laws/Decode.lean ====
section
/-!
SUPPORT. The field tuple and the word carry the same bits.
-/
namespace Sys2Proof

/-- The word of the fields of a word is that word. -/
theorem toWord_ofWord (w : Word) : (InstrFields.ofWord w).toWord = w := by
  apply BitVec.eq_of_getLsbD_eq
  intro i hi
  simp only [InstrFields.toWord, InstrFields.ofWord, BitVec.getLsbD_append, BitVec.getLsbD_extractLsb']
  interval_cases i <;> simp

/-- The fields of the word of a tuple are that tuple. -/
theorem ofWord_toWord (f : InstrFields) : InstrFields.ofWord f.toWord = f := by
  cases f
  simp only [InstrFields.toWord, InstrFields.ofWord, InstrFields.mk.injEq]
  refine ⟨?_, ?_, ?_, ?_, ?_, ?_, ?_, ?_, ?_, ?_⟩ <;>
  · apply BitVec.eq_of_getLsbD_eq
    intro i hi
    simp only [BitVec.getLsbD_append, BitVec.getLsbD_extractLsb']
    interval_cases i <;> simp

end Sys2Proof
end

