-- ==== Sys2Proof/Laws/PerInstr.lean ====
section
/-!
SUPPORT. The per-instruction family `FieldPlacement`: the word of an instruction has the opcode table's fixed bits
and its `Rt` at bits [15:12].
-/
namespace Sys2Proof.Laws.FieldPlacement

/-- The fixed bits of the row `MRC` or `MCR` (R53), and the number of the register where the row has `tttt`. -/
def Statement (i : Instr) : Prop :=
  encode i &&& 0xFFFF0FFF = (match i.dir with | .read => 0xEE1C0F9C | .write => 0xEE0C0F9C) ∧
    (encode i).extractLsb' 12 4 = i.rt

theorem mrc (t : BitVec 4) : Statement (.mrc t) := by
  revert t; unfold Statement; decide

theorem mcr (t : BitVec 4) : Statement (.mcr t) := by
  revert t; unfold Statement; decide

end Sys2Proof.Laws.FieldPlacement
end

