-- ==== Sys2Proof/Laws/Routing.lean ====
section
/-!
SUPPORT. The routing chain by its levers: EL2's trap, EL2's redirection, and what is left to EL3 and the physical
register; and the three answers of `exec` in terms of the route.
-/
namespace Sys2Proof.Machine

variable {cfg : Cfg} {ctx : Ctx}

/-- Rows E1.1 to E1.4: T12 or TC of the register set that matches EL2's state traps to EL2. -/
theorem routeEl1_of_trapped (h : (ctx.el2Enabled && (ctx.t12 || ctx.tc)) = true) :
    routeEl1 cfg ctx = .trap (if ctx.el2A32 then .hyp else .el2A64) := by
  obtain ⟨el, mon, e2, a2, a3, t64, t32, tc64, tc32, f64, i64, f32, i32, q64, r64, q32, r32, ns, hs, ms⟩ := ctx
  simp only [Ctx.t12, Ctx.tc] at h
  unfold routeEl1
  cases e2 <;> cases a2 <;> simp_all
  · cases t64 <;> simp_all
  · cases t32 <;> simp_all

/-- Rows E1.5 to E1.8: with neither T12 nor TC set, a lever of EL2 redirects to ICV_CTLR. -/
theorem routeEl1_of_redirected (h : (ctx.el2Enabled && (ctx.t12 || ctx.tc)) = false)
    (hl : el2Lever cfg ctx = true) : routeEl1 cfg ctx = .register .icv := by
  obtain ⟨el, mon, e2, a2, a3, t64, t32, tc64, tc32, f64, i64, f32, i32, q64, r64, q32, r32, ns, hs, ms⟩ := ctx
  simp only [el2Lever, Ctx.t12, Ctx.tc] at h hl
  unfold routeEl1
  cases e2 with
  | false => simp at hl
  | true =>
    generalize a32Row cfg _ = row at hl ⊢
    cases a2 <;> cases row <;> simp at h hl ⊢ <;> obtain ⟨rfl, rfl⟩ := h
    · cases f64 <;> simp_all
    · cases f64 <;> cases i64 <;> cases f32 <;> simp_all
    · simp at hl
    · cases f32 <;> simp_all

/-- Rows E1.9 to E1.12: with no lever of EL2, EL3's trap or the physical register. -/
theorem routeEl1_of_no_lever (hl : el2Lever cfg ctx = false) :
    routeEl1 cfg ctx =
      if cfg.haveEl3 && !ctx.el3A32 && ctx.scrEl3Irq && ctx.scrEl3Fiq then .trap .el3A64
      else if cfg.haveEl3 && ctx.el3A32 && !ctx.isMonitor && ctx.scrIrq && ctx.scrFiq then .trap .monitor
      else if cfg.haveEl3 then .register (bankOf ctx.scrNs) else .register .icc := by
  obtain ⟨el, mon, e2, a2, a3, t64, t32, tc64, tc32, f64, i64, f32, i32, q64, r64, q32, r32, ns, hs, ms⟩ := ctx
  simp only [el2Lever, Ctx.t12, Ctx.tc] at hl
  unfold routeEl1
  cases e2 with
  | false => simp
  | true =>
    generalize a32Row cfg _ = row at hl ⊢
    cases a2 <;> cases row <;> simp_all

/-- A lever of EL2 is set where T12 or TC is. -/
theorem el2Lever_of_trapped (h : (ctx.el2Enabled && (ctx.t12 || ctx.tc)) = true) : el2Lever cfg ctx = true := by
  simp only [Bool.and_eq_true] at h
  simp [el2Lever, h.1, h.2]

variable {i : Instr} {s : State}

/-- An instruction raises an outcome exactly when `t` is not 15 and the route is a trap. -/
theorem exec_fault_iff {f : Fault} : exec i s = .fault f ↔
    i.wf = true ∧ ∃ trap, route s.cfg s.ctx = .trap trap ∧ f = takeTrap i.dir i.rt s trap := by
  cases i <;> simp [exec, execMrc, execMcr, access_fault_iff, Instr.wf, Instr.dir, Instr.rt]

/-- An instruction with `t` in 0..14 whose route reaches a register completes. -/
theorem exec_next_of_route {target : Target} (hi : i.wf = true) (hr : route s.cfg s.ctx = .register target) :
    ∃ s', exec i s = .next s' := by
  cases i with
  | mrc t =>
    obtain ⟨k, hk⟩ := gprIndex_of_ne (t := t) (by simpa [Instr.wf] using hi)
    simp only [exec, execMrc]
    exact ⟨_, access_next_iff.mpr ⟨k, target, hk, hr, rfl⟩⟩
  | mcr t =>
    obtain ⟨k, hk⟩ := gprIndex_of_ne (t := t) (by simpa [Instr.wf] using hi)
    simp only [exec, execMcr]
    exact ⟨_, access_next_iff.mpr ⟨k, target, hk, hr, rfl⟩⟩

end Sys2Proof.Machine
end

