-- ==== Sys2Proof/Laws/Step.lean ====
section
/-!
SUPPORT. Where an instruction comes from: what `fetchInstr` and `step` answer.
-/
namespace Sys2Proof.Machine

/-- The text at `pc` is the one `program` holds at the place of `pc`. -/
theorem currentCode_eq_some_iff {s : State} {c : CodeWord} :
    s.currentCode = some c ↔ s.onPlace = true ∧ s.program[s.place]? = some c := by
  unfold State.currentCode
  split <;> simp_all

/-- An instruction is fetched exactly when the configuration is admitted and the text at `pc` decodes to it. -/
theorem fetchInstr_ok_iff {s : State} {i : Instr} : fetchInstr s = .ok i ↔
    configAdmitted s.cfg = true ∧ ∃ c, s.currentCode = some c ∧ decode s.cfg.iset c.block c.word = .ok i := by
  unfold fetchInstr
  cases configAdmitted s.cfg with
  | false => simp
  | true =>
    cases s.currentCode with
    | none => simp; split <;> simp
    | some c => cases h : decode s.cfg.iset c.block c.word <;> simp [h]

/-- A step that answers a next state ran a fetched instruction. -/
theorem step_next_iff {s s' : State} : step s = .next s' ↔ ∃ i, fetchInstr s = .ok i ∧ exec i s = .next s' := by
  unfold step
  cases fetchInstr s <;> simp

/-- The place of a fetched instruction is one of the program's. -/
theorem place_lt_of_fetchInstr {s : State} {i : Instr} (h : fetchInstr s = .ok i) :
    s.onPlace = true ∧ s.place < s.program.length := by
  obtain ⟨_, w, hw, _⟩ := fetchInstr_ok_iff.mp h
  obtain ⟨ho, hp⟩ := currentCode_eq_some_iff.mp hw
  exact ⟨ho, (List.getElem?_eq_some_iff.mp hp).1⟩

/-- A step keeps the configuration, the context and the program, moves the pc by 4, and leaves ICV_CTLR or writes it
whole. -/
theorem step_next {s s' : State} (h : step s = .next s') :
    (∃ i, fetchInstr s = .ok i) ∧ SameRun s s' ∧ s'.pc = s.pc + 4 ∧
      (s'.icv = s.icv ∨ ∃ w, s'.icv = s.icv.write s.cfg.sync w) := by
  obtain ⟨i, hf, he⟩ := step_next_iff.mp h
  refine ⟨⟨i, hf⟩, ?_⟩
  cases i with
  | mrc t =>
    obtain ⟨_, _, _, _, _, rfl⟩ := execMrc_next he
    exact ⟨⟨rfl, rfl, rfl, rfl⟩, rfl, .inl rfl⟩
  | mcr t =>
    obtain ⟨_, _, ⟨_, rfl⟩ | ⟨_, _, _, _, rfl⟩⟩ := execMcr_next he
    · exact ⟨⟨rfl, rfl, rfl, rfl⟩, rfl, .inr ⟨_, rfl⟩⟩
    · exact ⟨⟨rfl, rfl, rfl, rfl⟩, rfl, .inl rfl⟩

/-- Inside the program a step moves to the next place: `base + 4*k` becomes `base + 4*(k+1)`. -/
theorem offset_of_step {s s' : State} (h : step s = .next s') (hn : s.program.length < 2 ^ 30) :
    s'.offset = s.offset + 4 := by
  obtain ⟨⟨_, hf⟩, run, hp, _⟩ := step_next h
  have hlt := (place_lt_of_fetchInstr hf).2
  have e : s'.pc - s'.base = (s.pc - s.base) + 4 := by
    rw [run.base, hp, BitVec.sub_eq_add_neg, BitVec.sub_eq_add_neg, BitVec.add_assoc, BitVec.add_assoc,
      BitVec.add_comm 4]
  unfold State.place State.offset at hlt
  unfold State.offset
  rw [e, BitVec.toNat_add]
  change ((s.pc - s.base).toNat + 4) % 2 ^ 32 = _
  omega

/-- A run of `k + 1` steps is a step and a run of `k`. -/
theorem runSteps_of_next {k : Nat} {s s' : State} (h : step s = .next s') : runSteps (k + 1) s = runSteps k s' := by
  simp [runSteps, h]

/-- A run that answers a next state after `k + 1` steps took a first step. -/
theorem runSteps_succ_next {k : Nat} {s t : State} (h : runSteps (k + 1) s = .next t) :
    ∃ s', step s = .next s' ∧ runSteps k s' = .next t := by
  simp only [runSteps] at h
  cases e : step s <;> simp [e] at h
  exact ⟨_, rfl, h⟩

end Sys2Proof.Machine
end

