-- ==== Sys2Proof/Tests/Slice0.lean ====
section
/-!
SUPPORT. The model's own tests, their expected results taken from spec/95_test_vectors.md, and one witness for the
hypotheses of every statement that has any.
-/
namespace Sys2Proof.Tests

open Sys2Proof Sys2Proof.Machine

/-! ### Helpers -/

/-- CFG-B of 95_test_vectors.md. -/
def cfgB : Cfg := { exampleCfg with extRange := 0, rss := 0, a3v := 0, seis := 1, idBits := 0b001, priBits := 0b111 }

/-- CFG-D of 95_test_vectors.md. -/
def cfgD : Cfg := { exampleCfg with seis := 1, idBits := 0b001, priBits := 0b111 }

/-- A configuration with the two parameters the routing vectors vary. -/
def cfgR (haveEl3 : Bool) (hcrRows : HcrRows) : Cfg := { exampleCfg with haveEl3, hcrRows }

/-- A field holding a bit nobody is still waiting for. -/
def held (b : BitVec 1) : RwField := { now := .known b, old := [] }

/-- A small state: a context, `x[1]`, and the two fields `Known`. -/
def small (cfg : Cfg) (ctx : Ctx) (x1 : Word) (e c : BitVec 1) : State :=
  { (State.reset.writeX 1 x1) with cfg, ctx, icv := { eoimode := held e, cbpr := held c } }

/-- The state after an outcome, if there is one. -/
def nextOf : Host.Outcome State Fault Refusal → Option State
  | .next s => some s
  | _ => none

/-- The fault of an outcome, if there is one. -/
def faultOf : Host.Outcome State Fault Refusal → Option Fault
  | .fault f => some f
  | _ => none

/-- The refusal of an outcome, if there is one. -/
def refusalOf : Host.Outcome State Fault Refusal → Option Refusal
  | .refused r => some r
  | _ => none

/-! ### Well-formedness and decoding (V-D1 to V-D13) -/

theorem test_wf_refuses_register_fifteen : (Instr.mrc 15).wf = false ∧ (Instr.mcr 15).wf = false := by decide

theorem test_wf_admits_register_fourteen : (Instr.mrc 14).wf = true ∧ (Instr.mcr 0).wf = true := by decide

/-- R53 bit by bit: cond 1110, 1110, opc1 000, L 1, CRn 1100, Rt 0101, coproc 1111, opc2 100, 1, CRm 1100 (V-D2). -/
theorem test_decode_mrc_bit_by_bit :
    decode .a32 .outside 0b11101110000111000101111110011100 = .ok (.mrc 5) := by decide

/-- R53 bit by bit with L 0 and Rt 0001 (V-D4). -/
theorem test_decode_mcr_bit_by_bit :
    decode .a32 .outside 0b11101110000011000001111110011100 = .ok (.mcr 1) := by decide

theorem test_decode_accepted_words :
    decode .a32 .outside 0xEE1C0F9C = .ok (.mrc 0) ∧ decode .t32 .outside 0xEE1CEF9C = .ok (.mrc 14) ∧
      decode .t32 .outside 0xEE0CEF9C = .ok (.mcr 14) := by decide

theorem test_decode_refused_words :
    decode .a32 .outside 0xEE1CFF9C = .error .registerFifteen ∧ decode .a32 .outside 0xEE1C0FBC = .error .notInScope ∧
      decode .a32 .outside 0xEE1C0F9B = .error .notInScope ∧ decode .a32 .outside 0xEE1B0F9C = .error .notInScope ∧
      decode .a32 .outside 0xEE3C0F9C = .error .notInScope ∧ decode .a32 .outside 0xEE1C0E9C = .error .notInScope ∧
      decode .a32 .outside 0x0E1C0F9C = .error .conditionalForm ∧ decode .t32 .outside 0x0E1C0F9C = .error .notInScope ∧
      decode .a32 .outside 0xEE1C0F8C = .error .notInScope := by decide

/-- R55: "in T32 an instruction outside any conditional block"; the block does not make another word an instruction. -/
theorem test_decode_conditional_block :
    decode .t32 .inside 0xEE1C0F9C = .error .conditionalForm ∧ decode .t32 .outside 0xEE1C0F9C = .ok (.mrc 0) ∧
      decode .t32 .inside 0xEE1C0FBC = .error .notInScope ∧
      decodeHalfwords .inside [0xEE0C, 0x1F9C] = .error .conditionalForm := by decide

/-- The words of programs P1 and P2. -/
theorem test_encode_words :
    encode (.mcr 1) = 0xEE0C1F9C ∧ encode (.mrc 0) = 0xEE1C0F9C ∧ encode (.mrc 2) = 0xEE1C2F9C := by decide

/-- R53, T32: `0xEE1C : (0x0F9C | (t << 12))`. -/
theorem test_halfwords : encodeHalfwords (.mrc 2) = [0xEE1C, 0x2F9C] ∧
    decodeHalfwords .outside [0xEE0C, 0x1F9C, 0xBF00] = .ok (.mcr 1, [0xBF00]) := by decide

theorem test_table_word : decodeTableWord 32 0xEE0C0F9C = some (.mcr 0) := by decide

/-- R58. -/
theorem test_spelling : (Instr.mrc 0).spelling = "mrc p15, 0, r0, c12, c12, 4" := by decide

/-! ### The register word (V-F1 to V-F6, V-W5) -/

theorem test_register_words :
    icvWord exampleCfg 0 0 = 0x000C8400 ∧ icvWord exampleCfg 1 1 = 0x000C8403 ∧ icvWord cfgB 1 0 = 0x00004F02 ∧
      icvWord cfgD 1 1 = 0x000CCF03 := by decide

/-- P1: "From `x[0]`: ExtRange 1, RSS 1, A3V 1, SEIS 0, IDbits 0b000, PRIbits 0b100, EOImode 1, CBPR 0". -/
theorem test_register_view : icvView 0x000C8402 =
    { res31To20 := 0, extRange := 1, rss := 1, res17To16 := 0, a3v := 1, seis := 0, idBits := 0, priBits := 4,
      res7To2 := 0, eoimode := 1, cbpr := 0 } := by decide

/-! ### Routing (one vector per row, V-R0 to V-R33) -/

/-- EL1 with EL2 enabled and using AArch64, or AArch32. -/
def el1With64 : Ctx := { Ctx.zero .el1 with el2Enabled := true }
def el1With32 : Ctx := { el1With64 with el2A32 := true }

/-- The context of V-R7. -/
def ctxR7 : Ctx := { el1With32 with hcrFmo := true, el3A32 := true, scrIrq := true, scrFiq := true }

/-- The context of V-R9. -/
def ctxR9 : Ctx := { Ctx.zero .el1 with scrEl3Irq := true, scrEl3Fiq := true }

/-- The context of V-R22. -/
def ctxR22 : Ctx :=
  { Ctx.zero .el2 with el2A32 := true, iccHsreSre := true, scrEl3Irq := true, scrEl3Fiq := true }

/-- The context of V-R32. -/
def ctxR32 : Ctx := { Ctx.zero .el3 with el3A32 := true, isMonitor := true, iccMsreSre := true }

theorem test_routes_el0_el1_levers :
    route (cfgR true .corrected) { el1With64 with el := .el0, hcrEl2Imo := true } = .trap .undef ∧
    route (cfgR true .corrected) { el1With64 with hstrEl2T12 := true, ichHcrEl2Tc := true, hcrEl2Imo := true }
      = .trap .el2A64 ∧
    route (cfgR false .corrected) { el1With64 with hstrT12 := true } = .register .icc ∧
    route (cfgR false .corrected) { el1With32 with hstrT12 := true, hcrFmo := true } = .trap .hyp ∧
    route (cfgR true .corrected) { el1With64 with ichHcrEl2Tc := true, hcrEl2Fmo := true } = .trap .el2A64 ∧
    route (cfgR true .corrected) { el1With32 with ichHcrTc := true, hcrImo := true } = .trap .hyp ∧
    route (cfgR true .corrected) { el1With64 with hcrEl2Fmo := true, scrEl3Irq := true, scrEl3Fiq := true }
      = .register .icv ∧
    route (cfgR true .corrected) { el1With64 with hcrEl2Imo := true } = .register .icv := by decide

theorem test_routes_el1_rows :
    route (cfgR true .corrected) ctxR7 = .register .icv ∧ route (cfgR true .literal) ctxR7 = .trap .monitor ∧
    route (cfgR false .corrected) { el1With32 with hcrImo := true } = .register .icv ∧
    route (cfgR false .literal) { el1With32 with hcrImo := true } = .register .icc ∧
    route (cfgR false .literal) { el1With64 with hcrFmo := true } = .register .icv ∧
    route (cfgR false .corrected) { el1With64 with hcrFmo := true } = .register .icc := by decide

theorem test_routes_el1_el3 :
    route (cfgR true .corrected) ctxR9 = .trap .el3A64 ∧ route (cfgR false .corrected) ctxR9 = .register .icc ∧
    route (cfgR true .corrected) { ctxR9 with scrEl3Fiq := false, scrNs := true } = .register .iccNs ∧
    route (cfgR true .corrected) { Ctx.zero .el1 with el3A32 := true, scrIrq := true, scrFiq := true }
      = .trap .monitor ∧
    route (cfgR true .corrected) { Ctx.zero .el1 with el3A32 := true, scrFiq := true } = .register .iccS ∧
    route (cfgR true .corrected) { el1With64 with scrNs := true } = .register .iccNs ∧
    route (cfgR false .corrected) (Ctx.zero .el1) = .register .icc := by decide

theorem test_routes_el2_el3 :
    route (cfgR true .corrected) { ctxR22 with iccHsreSre := false } = .trap .undef ∧
    route (cfgR true .corrected) ctxR22 = .trap .el3A64 ∧
    route (cfgR true .corrected) { ctxR22 with el3A32 := true, scrIrq := true, scrFiq := true } = .trap .monitor ∧
    route (cfgR true .corrected) { ctxR22 with el3A32 := true, scrIrq := true } = .register .iccNs ∧
    route (cfgR false .corrected) ctxR22 = .register .icc ∧
    route (cfgR true .corrected) { ctxR32 with iccMsreSre := false } = .trap .undef ∧
    route (cfgR true .corrected) { ctxR32 with scrIrq := true, scrFiq := true } = .register .iccS ∧
    route (cfgR true .corrected) { ctxR32 with isMonitor := false, scrNs := true } = .register .iccNs := by decide

/-! ### The two instructions (V-I1 to V-I12) -/

/-- V-I1, the worked example of R61. -/
theorem test_mrc_worked_example :
    (nextOf (exec (.mrc 0) (small exampleCfg exampleCtx 0 1 0))).map (fun s => (s.readX 0, s.pc, s.icv.eoimode.now)) =
      some (0x000C8402, 4, .known 1) := by decide

/-- V-I12. -/
theorem test_mrc_highest_register :
    (nextOf (exec (.mrc 14) (small (cfgR false .corrected) { el1With32 with hcrImo := true } 0 1 1))).map
      (fun s => s.readX 14) = some 0x000C8403 := by decide

/-- V-I2, the worked example of R62: from fields `Unknown`. -/
theorem test_mcr_worked_example :
    (nextOf (exec (.mcr 1) (State.reset.writeX 1 0xFFFFFFFD))).map
      (fun s => (s.icv.eoimode.now, s.icv.cbpr.now, s.readX 1, s.pc)) = some (.known 0, .known 1, 0xFFFFFFFD, 4) := by
  decide

/-- V-I7: an access routed to `ICC_CTLR_S` leaves EOImode and CBPR. -/
theorem test_mcr_physical_leaves_icv :
    (nextOf (exec (.mcr 1) (small exampleCfg (Ctx.zero .el1) 3 0 0))).map (fun s => (s.icv, s.pc)) =
      some ({ eoimode := held 0, cbpr := held 0 }, 4) := by decide

/-- V-I3, V-I9, V-I11. -/
theorem test_mrc_outcomes :
    faultOf (exec (.mrc 3) (small exampleCfg { exampleCtx with el := .el0 } 0 0 0)) = some (.undefined 0) ∧
    faultOf (exec (.mrc 4) (small exampleCfg ctxR22 0 0 0)) = some (.sysAccessTrapA64 .el3 3
      { dir := .read, t := 4, addr := { coproc := 15, opc1 := 0, crn := 12, crm := 12, opc2 := 4 }, pc := 0 }) ∧
    refusalOf (exec (.mrc 15) State.reset) = some (.instruction .registerFifteen) := by decide

/-- P3: `ICH_HCR_EL2.TC` beats the redirection; the record of program P3. -/
theorem test_mcr_outcomes :
    faultOf (exec (.mcr 1) (small exampleCfg { el1With64 with ichHcrEl2Tc := true, hcrEl2Fmo := true } 3 0 0)) =
      some (.sysAccessTrapA64 .el2 3
        { dir := .write, t := 1, addr := { coproc := 15, opc1 := 0, crn := 12, crm := 12, opc2 := 4 }, pc := 0 }) ∧
    (faultOf (exec (.mcr 4) (small exampleCfg { ctxR9 with el3A32 := true, scrIrq := true, scrFiq := true } 0 0 0))
      ).isSome = true := by decide

/-- The host's question: the first instruction after reset. -/
theorem test_first_step_after_reset :
    (nextOf (step (State.reset.withFetchWord 32 0xEE1C0F9C))).map (fun s => (s.pc, s.icv.eoimode.now)) =
      some (4, .unknown) ∧
    (nextOf (step (State.reset.withFetchWord 32 0xEE0C0F9C))).map (fun s => (s.pc, s.icv.eoimode.now)) =
      some (4, .known 0) := by decide

/-- R17 (V-F10), R115: a configuration refused, and a run at its end. -/
theorem test_step_refusals :
    refusalOf (step { State.reset with cfg := { exampleCfg with idBits := 0b010 } }) =
      some (.reservedIdBits 0b010) ∧
    refusalOf (step State.reset) = some .endOfProgram ∧
    refusalOf (step { State.reset with pc := 2 }) = some (.pcOutsideProgram 2) := by decide

/-! ### Field effects (V-E, V-B, V-X, V-S, V-P) -/

theorem test_field_effects :
    eoirWriteEffects 0 = [.priorityDrop, .deactivate] ∧ eoirWriteEffects 1 = [.priorityDrop] ∧
    dirAccess 0 = .error (.unpredictable .icvDirAccess) ∧ dirAccess 1 = .ok [.deactivate] ∧
    preemptionBpr 0 .group1 = .bpr1 ∧ preemptionBpr 1 .group1 = .bpr0 ∧
    ([0, 1, 2, 3, 4, 5, 6, 7].map (fun b => bpr1Read 1 b 0)) = [1, 2, 3, 4, 5, 6, 7, 7] ∧
    bpr1Read 0 7 2 = 2 ∧ bpr1Write 1 3 5 = 3 := by decide

theorem test_identification :
    deliverIntid 0 1023 = .ok .accepted ∧ deliverIntid 0 1024 = .error (.unpredictable .extendedIntid) ∧
    deliverIntid 0 8191 = .error (.unpredictable .extendedIntid) ∧ deliverIntid 0 8192 = .ok .accepted ∧
    deliverIntid 1 8191 = .ok .requiresDeactivation ∧
    sgiAff0Supported 0 15 = true ∧ sgiAff0Supported 0 16 = false ∧ sgiAff0Supported 1 255 = true ∧
    sgiAff0Supported 1 256 = false ∧ sgiAff3Supported 0 1 = false ∧ sgiAff3Supported 1 255 = true ∧
    priLevels exampleCfg = 32 ∧ priLevels cfgB = 256 ∧ idBitCount 0b001 = some 24 ∧ idBitCount 0b010 = none := by
  decide

/-! ### Witnesses: a state and operands that meet the hypotheses of each statement -/

/-- Both sides of the equivalences about encoding occur. -/
theorem witness_DecodeAcceptsExactlyTheEncodings :
    decode .t32 .outside 0xEE0CEF9C = .ok (.mcr 14) ∧ (Instr.mcr 14).wf = true ∧ encode (.mcr 14) = 0xEE0CEF9C := by decide

theorem witness_LiteralRouteIsThePrintedChain : (cfgR true .literal).hcrRows = .literal := rfl

theorem witness_HcrRowReadingsCompared :
    (el1With64.el2A32 = false ∧ el1With64.hcrFmo = el1With64.hcrEl2Fmo ∧ el1With64.hcrImo = el1With64.hcrEl2Imo) ∧
      el1With32.el2A32 = true := by decide

/-- Clauses (a) and (d), (b), (c), (e) and (f) of R65, one witness each. -/
theorem witness_RouteConsequences :
    (exampleCfg.hcrRows = .corrected ∧ route exampleCfg exampleCtx = .register .icv) ∧
    ctxR22.el ≠ .el1 ∧
    (Ctx.admitted (cfgR false .corrected) (Ctx.zero .el1) = true ∧
      route (cfgR false .corrected) (Ctx.zero .el1) = .register .icc) ∧
    (Ctx.admitted exampleCfg ctxR32 = true ∧ route exampleCfg ctxR32 = .register .iccS) ∧
    (ctxR9.el = .el1 ∧ ctxR9.el2Enabled = false) ∧
    route exampleCfg { el1With64 with hstrEl2T12 := true } = .trap .el2A64 ∧
    route exampleCfg { el1With32 with hstrT12 := true } = .trap .hyp ∧
    route exampleCfg ctxR9 = .trap .el3A64 ∧
    route exampleCfg { ctxR9 with el3A32 := true, scrIrq := true, scrFiq := true } = .trap .monitor := by decide

theorem witness_El2LeversShieldFromEl3 :
    exampleCtx.el = .el1 ∧ el2Lever exampleCfg exampleCtx = true ∧
      el2Lever (cfgR true .literal) { el1With64 with hcrFmo := true } = true := by decide

theorem witness_CompletionDependsOnContextOnly :
    (Instr.mrc 0).wf = true ∧ (Instr.mcr 14).wf = true ∧
      (small exampleCfg exampleCtx 7 1 0).cfg = State.reset.cfg ∧
      (small exampleCfg exampleCtx 7 1 0).ctx = State.reset.ctx := by decide

/-- Each of the five outcomes occurs. -/
theorem witness_outcomes :
    faultOf (exec (.mcr 0) (small exampleCfg { ctxR32 with iccMsreSre := false } 0 0 0)) = some (.undefined 0) ∧
    (faultOf (exec (.mrc 0) (small exampleCfg { el1With64 with hstrEl2T12 := true } 0 0 0))).isSome = true ∧
    (faultOf (exec (.mrc 0) (small exampleCfg { el1With32 with hstrT12 := true } 0 0 0))).isSome = true ∧
    (faultOf (exec (.mrc 0) (small exampleCfg ctxR9 0 0 0))).isSome = true ∧
    (faultOf (exec (.mrc 0)
      (small exampleCfg { ctxR9 with el3A32 := true, scrIrq := true, scrFiq := true } 0 0 0))).isSome = true := by
  decide

/-- The first and the last register; MrcReadsIcvCtlr, McrWritesIcvCtlr and the statements built on them. -/
theorem witness_routed_to_icv :
    (0 : BitVec 4).toNat = (0 : Fin 15) ∧ (14 : BitVec 4).toNat = (14 : Fin 15) ∧
      route State.reset.cfg State.reset.ctx = .register .icv := by decide

theorem witness_IcvReadLayout :
    ∃ s', exec (.mrc 14) State.reset = .next s' ∧ route State.reset.cfg State.reset.ctx = .register .icv :=
  ⟨_, rfl, by decide⟩

theorem witness_MrcReadsPhysicalTarget :
    route exampleCfg ctxR32 = .register .iccS ∧ route exampleCfg { ctxR32 with scrNs := true } = .register .iccNs ∧
      route (cfgR false .corrected) (Ctx.zero .el1) = .register .icc ∧ Target.icc ≠ .icv := by decide

theorem witness_MrcFrame : ∃ s', exec (.mrc 3) State.reset = .next s' := ⟨_, rfl⟩

theorem witness_McrFrame :
    (∃ s', exec (.mcr 3) State.reset = .next s' ∧ route State.reset.cfg State.reset.ctx = .register .icv) ∧
    ∃ s', exec (.mcr 3) (small exampleCfg ctxR32 0 0 0) = .next s' ∧ route exampleCfg ctxR32 ≠ .register .icv :=
  ⟨⟨_, rfl, by decide⟩, ⟨_, rfl, by decide⟩⟩

theorem witness_McrOldValuesBySync :
    (∃ s', exec (.mcr 1) State.reset = .next s' ∧ State.reset.cfg.sync = .immediate) ∧
    ∃ s', exec (.mcr 1) (small { exampleCfg with sync := .drawUntilSync } exampleCtx 3 0 0) = .next s' ∧
      route { exampleCfg with sync := .drawUntilSync } exampleCtx = .register .icv :=
  ⟨⟨_, rfl, rfl⟩, ⟨_, rfl, by decide⟩⟩

theorem witness_WriteBackKeepsTheFields :
    (small exampleCfg exampleCtx 0 1 0).icv.eoimode.now = .known 1 ∧
      (small exampleCfg exampleCtx 0 1 0).icv.cbpr.now = .known 0 ∧
      route exampleCfg exampleCtx = .register .icv := by decide

/-- Program P1 in its context V-R6. -/
def p1 : State := (State.reset.writeX 1 2).loadProgram [.mcr 1, .mrc 0]

theorem witness_StepRunsTheDecodedInstruction :
    configAdmitted p1.cfg = true ∧ (p1.pc - p1.base).toNat = 4 * 0 ∧ p1.program[0]? = some (codeOf (.mcr 1)) ∧
      decode p1.cfg.iset .outside (encode (.mcr 1)) = .ok (.mcr 1) := by decide

/-- The clauses of StepStopsWhereTheSpecRefuses: a word refused; an end at `n = 0` and past an instruction. -/
theorem witness_StepStopsWhereTheSpecRefuses :
    (∃ c, (p1.loadCode [c]).program[0]? = some c ∧ decode p1.cfg.iset c.block c.word = .error .registerFifteen) ∧
    (State.reset.program.length < 2 ^ 30 ∧ State.reset.pc = State.reset.base + BitVec.ofNat 32 (4 * 0)) ∧
    refusalOf (step { p1 with pc := 8 }) = some .endOfProgram :=
  ⟨⟨codeOf (.mrc 15), by decide⟩, by decide, by decide⟩

/-- P1 with its first instruction inside a T32 conditional block, whose step R55 refuses. -/
def p1InBlock : State :=
  { p1.loadCode [{ codeOf (.mcr 1) with block := .inside }, codeOf (.mrc 0)] with cfg := { exampleCfg with iset := .t32 } }

/-- The same text under another instruction set or outside the block is run. -/
theorem test_step_conditional_block :
    refusalOf (step p1InBlock) = some (.instruction .conditionalForm) ∧
    (nextOf (step { p1InBlock with cfg := exampleCfg })).map (fun s => s.pc) = some 4 ∧
    (nextOf (step { p1 with cfg := p1InBlock.cfg })).map (fun s => s.pc) = some 4 := by decide

/-- R28: pc plus 4 modulo 2^32. That the next instruction stands at address 0 is the model's choice (log 25). -/
theorem test_step_across_the_top :
    (nextOf (step (({ p1 with pc := 0xFFFFFFFC } : State).loadProgram [.mcr 1, .mrc 0]))).map
      (fun s => (s.pc, (nextOf (step s)).map (fun s => s.pc))) = some (0, some 4) := by decide

/-- Both clauses, each on both sides of its equivalence. -/
theorem witness_StepRefusesConditionalForms :
    (configAdmitted p1InBlock.cfg = true ∧ (p1InBlock.pc - p1InBlock.base).toNat = 4 * 0 ∧ p1InBlock.cfg.iset = .t32 ∧
      p1InBlock.program[0]? = some { word := 0xEE0C1F9C, block := .inside } ∧
      (0xEE0C1F9C : Word) &&& 0xFFEF0FFF = 0xEE0C0F9C) ∧
    ({ p1 with cfg := p1InBlock.cfg } : State).program[0]? = some (codeOf (.mcr 1)) ∧
    (p1.cfg.iset = .a32 ∧ (p1.loadCode [{ word := 0x0E1C0F9C, block := .outside }]).program[0]? =
        some { word := 0x0E1C0F9C, block := .outside } ∧
      (0x0E1C0F9C : Word) &&& 0x0FEF0FFF = 0x0E0C0F9C ∧ (0x0E1C0F9C : Word) &&& 0xF0000000 ≠ 0xE0000000) ∧
    ((encode (.mcr 1)) &&& 0x0FEF0FFF = 0x0E0C0F9C ∧ (encode (.mcr 1)) &&& 0xF0000000 = 0xE0000000) := by decide

/-- StepKeepsTheRun, IcvChangesOnlyByVirtualisedWrite: a step that writes ICV_CTLR. -/
theorem witness_step_next : ∃ s', step p1 = .next s' ∧ s'.icv ≠ p1.icv := ⟨_, rfl, by decide⟩

/-- PhysicalTargetsAreBanked: a step in an admitted context for each of the three targets. -/
theorem witness_PhysicalTargetsAreBanked :
    (∃ s', step { p1 with cfg := cfgR false .corrected, ctx := Ctx.zero .el1 } = .next s' ∧
      Ctx.admitted (cfgR false .corrected) (Ctx.zero .el1) = true) ∧
    (∃ s', step { p1 with ctx := ctxR32 } = .next s' ∧ ctxR32.admitted exampleCfg = true) ∧
    ∃ s', step { p1 with ctx := { ctxR32 with scrNs := true } } = .next s' ∧
      Ctx.admitted exampleCfg { ctxR32 with scrNs := true } = true :=
  ⟨⟨_, rfl, by decide⟩, ⟨_, rfl, by decide⟩, ⟨_, rfl, by decide⟩⟩

theorem witness_EveryStepKeepsTheRunInvariant : RunInv p1 ∧ ∃ s', step p1 = .next s' :=
  ⟨⟨by decide, by decide, by decide, by decide, by decide, fun _ => by decide, fun _ => by decide, fun _ => by decide,
    by decide⟩, ⟨_, rfl⟩⟩

theorem witness_LaunchMeetsTheRunInvariant :
    configAdmitted cfgD = true ∧ ctxR32.admitted cfgD = true ∧ [codeOf (.mrc 0)].length < 2 ^ 30 := by decide

theorem witness_RunEndsWithinItsLength : p1.program.length < 2 ^ 30 := by decide

theorem witness_ProgramRunsToItsEnd :
    (∀ i ∈ [Instr.mcr 1, Instr.mrc 0], i.wf = true) ∧ [Instr.mcr 1, Instr.mrc 0].length < 2 ^ 30 ∧
      configAdmitted State.reset.cfg = true ∧ route State.reset.cfg State.reset.ctx = .register .icv := by decide

theorem witness_UsesSeeAnImmediateWrite :
    State.reset.cfg.sync = .immediate ∧ route State.reset.cfg State.reset.ctx = .register .icv ∧
      ((State.reset.writeX 1 2).readX 1).extractLsb' 1 1 = 1 := by decide

/-- With the old bits 0 and the new ones 1, so that the two uses differ. -/
theorem witness_UsesSeeOldOrNewUntilSync :
    (small { exampleCfg with sync := .drawUntilSync } exampleCtx 3 0 0).cfg.sync = .drawUntilSync ∧
    (small { exampleCfg with sync := .drawUntilSync } exampleCtx 3 0 0).icv.eoimode = { now := .known 0, old := [] } ∧
    (small { exampleCfg with sync := .drawUntilSync } exampleCtx 3 0 0).icv.cbpr = { now := .known 0, old := [] } ∧
    route { exampleCfg with sync := .drawUntilSync } exampleCtx = .register .icv ∧
    ((small { exampleCfg with sync := .drawUntilSync } exampleCtx 3 0 0).readX 1).extractLsb' 1 1 = 1 := by decide

end Sys2Proof.Tests
end

section
/-!
The frame of a whole step (R5, R24, R28, R47): `step_next` says what it keeps; the count of draws is the
instructions' own.
-/
namespace Sys2Proof.Machine

/-- A completed instruction only ever advances the stream of free values (R7). -/
theorem exec_next_draws_le {i : Instr} {s s' : State} (h : exec i s = .next s') : s.draws ≤ s'.draws := by
  cases i with
  | mrc t =>
    obtain ⟨_, _, _, _, hn, rfl⟩ := execMrc_next h
    exact hn
  | mcr t =>
    obtain ⟨_, _, ⟨_, rfl⟩ | ⟨_, _, _, _, rfl⟩⟩ := execMcr_next h
    · simp
    · exact Nat.le_succ s.draws

/-- Settles O29, from what a step keeps and from the draws of the instruction it ran. -/
theorem stepKeepsTheRun : Obligations.StepKeepsTheRun := by
  intro s s' h
  obtain ⟨_, hrun, hpc, _⟩ := step_next h
  obtain ⟨_, _, hexec⟩ := step_next_iff.mp h
  exact ⟨hrun, hpc, exec_next_draws_le hexec⟩

end Sys2Proof.Machine
end

section
/-!
The invariant of a run (R17, R25, R28, R43, R45, R115): `step_next` and `offset_of_step` say what a step does to each
part of it.
-/
namespace Sys2Proof.Machine

/-- A step inside the program ends at a place of it or at its end, the one four bytes on (R28, R115). -/
theorem place_of_step {s s' : State} (h : step s = .next s') (hn : s.program.length < 2 ^ 30) :
    s'.onPlace = true ∧ s'.place = s.place + 1 ∧ s'.place ≤ s'.program.length := by
  obtain ⟨⟨_, hf⟩, run, _, _⟩ := step_next h
  obtain ⟨hon, hlt⟩ := place_lt_of_fetchInstr hf
  have hoff := offset_of_step h hn
  have hplace : s'.place = s.place + 1 := by simp only [State.place, hoff]; omega
  refine ⟨?_, hplace, by rw [hplace, run.program]; exact hlt⟩
  simp only [State.onPlace, hoff, beq_iff_eq] at hon ⊢
  omega

/-- Settles O32: the pc moves to the next place, and a write of ICV_CTLR makes both fields `Known` and empties or
extends both lists of old values. -/
theorem everyStepKeepsTheRunInvariant : Obligations.EveryStepKeepsTheRunInvariant := by
  intro s s' inv h
  obtain ⟨_, run, _, hicv⟩ := step_next h
  obtain ⟨hon, _, hin⟩ := place_of_step h inv.fits
  have hcfg : configAdmitted s'.cfg = true := run.cfg ▸ inv.cfg_admitted
  have hctx : s'.ctx.admitted s'.cfg = true := by rw [run.ctx, run.cfg]; exact inv.ctx_admitted
  have hfits : s'.program.length < 2 ^ 30 := run.program ▸ inv.fits
  rcases hicv with hsame | ⟨w, hwrite⟩
  · exact ⟨hcfg, hctx, hfits, hon, hin, by rw [run.cfg, hsame]; exact inv.settled,
      hsame ▸ inv.eoimode_unwritten, hsame ▸ inv.cbpr_unwritten, hsame ▸ inv.together⟩
  · refine ⟨hcfg, hctx, hfits, hon, hin, ?_, by simp [hwrite], by simp [hwrite], ?_⟩
    · intro hsync
      simp [hwrite, ← run.cfg, hsync]
    · rw [hwrite]
      cases s.cfg.sync with
      | immediate => rfl
      | drawUntilSync => simp [inv.together]

end Sys2Proof.Machine
end

section
/-!
The two accesses routed to a register (R61, R62), and the word a read of ICV_CTLR assembles at the positions of R10.
-/
namespace Sys2Proof.Machine

@[simp] theorem readX_advancePc (s : State) (i : Fin 15) : s.advancePc.readX i = s.readX i := rfl

/-- `MRC(t)` is the access that reads the target into `x[t]` (R61). -/
theorem exec_mrc (t : BitVec 4) (s : State) : exec (.mrc t) s =
    access .read t (fun target i s => (s.readTarget target).2.writeX i (s.readTarget target).1) s := rfl

/-- `MCR(t)` is the access that writes `x[t]` to the target (R62). -/
theorem exec_mcr (t : BitVec 4) (s : State) : exec (.mcr t) s =
    access .write t (fun target i s => s.writeTarget (s.readX i) target) s := rfl

/-- `MRC(t)` routed to a register reads it into `x[t]` (R61). -/
theorem exec_mrc_of_route {s : State} {t : BitVec 4} {i : Fin 15} {target : Target} (ht : t.toNat = i)
    (hr : route s.cfg s.ctx = .register target) :
    exec (.mrc t) s = .next ((s.readTarget target).2.writeX i (s.readTarget target).1).advancePc := by
  rw [exec_mrc, access_next_iff]
  exact ⟨i, target, gprIndex_eq_some_iff.mpr ht, hr, rfl⟩

/-- `MCR(t)` routed to a register writes `x[t]` to it (R62). -/
theorem exec_mcr_of_route {s : State} {t : BitVec 4} {i : Fin 15} {target : Target} (ht : t.toNat = i)
    (hr : route s.cfg s.ctx = .register target) :
    exec (.mcr t) s = .next (s.writeTarget (s.readX i) target).advancePc := by
  rw [exec_mcr, access_next_iff]
  exact ⟨i, target, gprIndex_eq_some_iff.mpr ht, hr, rfl⟩

/-- Settles O20: a write routed to ICV_CTLR is `writeIcv`, and `write_now` gives the two `Known` bits. -/
theorem mcrWritesIcvCtlr : Obligations.McrWritesIcvCtlr := by
  intro s t i ht hr
  exact ⟨s.icv.eoimode.write s.cfg.sync (eoimodeBit (s.readX i)), s.icv.cbpr.write s.cfg.sync (cbprBit (s.readX i)),
    exec_mcr_of_route ht hr, write_now .., write_now ..⟩

/-- The reserved places of a read word are zero (R11, R14, R19). -/
theorem icvWord_reserved (cfg : Cfg) (e c : BitVec 1) : icvWord cfg e c &&& 0xFFF300FC = 0 := by
  apply BitVec.eq_of_getLsbD_eq
  intro k hk
  simp only [icvWord, cfgWord, BitVec.getLsbD_and, BitVec.getLsbD_or, BitVec.getLsbD_shiftLeft, BitVec.getLsbD_setWidth]
  interval_cases k <;> simp

/-- Each field of a read word is the one it was assembled from (R10 to R22). -/
theorem icvView_icvWord (cfg : Cfg) (e c : BitVec 1) : icvView (icvWord cfg e c) =
    { res31To20 := 0, extRange := cfg.extRange, rss := cfg.rss, res17To16 := 0, a3v := cfg.a3v, seis := cfg.seis,
      idBits := cfg.idBits, priBits := cfg.priBits, res7To2 := 0, eoimode := e, cbpr := c } := by
  simp only [icvView, eoimodeBit, cbprBit, IcvView.mk.injEq]
  refine ⟨?_, ?_, ?_, ?_, ?_, ?_, ?_, ?_, ?_, ?_, ?_⟩ <;>
  · apply BitVec.eq_of_getLsbD_eq
    intro k hk
    simp only [icvWord, cfgWord, BitVec.getLsbD_extractLsb', BitVec.getLsbD_or, BitVec.getLsbD_shiftLeft,
      BitVec.getLsbD_setWidth]
    interval_cases k <;> simp

/-- Settles O18: the word in `x[t]` is the one `readIcv_spec` gives, and its layout is `icvWord`'s. -/
theorem icvReadLayout : Obligations.IcvReadLayout := by
  intro s s' t i ht hr h
  obtain ⟨e, c, n, he, hc, _, hread⟩ := readIcv_spec s
  have hx : s'.readX i = icvWord s.cfg e c := by
    rw [exec_mrc_of_route ht hr] at h
    cases h
    simp [State.readTarget, hread]
  rw [hx]
  exact ⟨icvWord_reserved .., e, c, he, hc, icvView_icvWord ..⟩

end Sys2Proof.Machine
end

section
/-!
Where a step stops before an instruction runs (R17, R54, R115): every refusal but `t = 15` is the fetch's.
-/
namespace Sys2Proof.Machine

/-- An instruction itself is refused for `t = 15` alone (R56). -/
theorem exec_refused_iff {i : Instr} {s : State} {r : Refusal} : exec i s = .refused r ↔
    i.rt = 15 ∧ r = .instruction .registerFifteen := by
  cases i with
  | mrc t => rw [exec_mrc, access_refused_iff]; rfl
  | mcr t => rw [exec_mcr, access_refused_iff]; rfl

/-- Any other refusal of a step is one of its fetch. -/
theorem step_refused_iff_of_ne {s : State} {r : Refusal} (hr : r ≠ .instruction .registerFifteen) :
    step s = .refused r ↔ fetchInstr s = .error r := by
  unfold step
  cases fetchInstr s with
  | error r' => simp
  | ok i => simp [exec_refused_iff, hr]

/-- A configuration is refused exactly when its IDbits value is a reserved one (R17). -/
theorem configAdmitted_eq_false_iff {cfg : Cfg} :
    configAdmitted cfg = false ↔ cfg.idBits ≠ 0b000 ∧ cfg.idBits ≠ 0b001 := by
  simp [configAdmitted]

/-- The fetch refuses the configuration exactly when it is not admitted, whatever the program (R17). -/
theorem fetchInstr_reservedIdBits_iff {s : State} {v : BitVec 3} :
    fetchInstr s = .error (.reservedIdBits v) ↔ v = s.cfg.idBits ∧ configAdmitted s.cfg = false := by
  unfold fetchInstr
  cases configAdmitted s.cfg with
  | false => simp [eq_comm]
  | true =>
    cases s.currentCode with
    | none => cases s.atEnd <;> simp
    | some c => cases h : decode s.cfg.iset c.block c.word <;> simp [h]

/-- A word the decoder refuses is refused by the fetch under the decoder's name (R54). -/
theorem fetchInstr_of_decode_error {s : State} {c : CodeWord} {why : InstrRefusal}
    (hcfg : configAdmitted s.cfg = true) (hc : s.currentCode = some c)
    (hd : decode s.cfg.iset c.block c.word = .error why) : fetchInstr s = .error (.instruction why) := by
  simp [fetchInstr, hcfg, hc, hd]

/-- At the end of the program there is no text. -/
theorem currentCode_of_atEnd {s : State} (h : s.atEnd = true) : s.currentCode = none := by
  simp only [State.atEnd, Bool.and_eq_true, beq_iff_eq] at h
  simp [State.currentCode, h.2]

/-- With an admitted configuration the fetch reports the end exactly at the end (R115). -/
theorem fetchInstr_endOfProgram_iff {s : State} (hcfg : configAdmitted s.cfg = true) :
    fetchInstr s = .error .endOfProgram ↔ s.atEnd = true := by
  unfold fetchInstr
  cases hc : s.currentCode with
  | none => cases s.atEnd <;> simp [hcfg]
  | some c =>
    have hend : s.atEnd ≠ true := fun h => by simp [currentCode_of_atEnd h] at hc
    cases h : decode s.cfg.iset c.block c.word <;> simp [hcfg, h, hend]

/-- The pc stands at place `k` exactly when its offset is `4*k` (R115). -/
theorem onPlace_and_place_iff {s : State} {k : Nat} : s.onPlace = true ∧ s.place = k ↔ s.offset = 4 * k := by
  simp only [State.onPlace, State.place, beq_iff_eq]
  omega

/-- The offset of the pc is `n` exactly when the pc is `base + n`, for an `n` inside the address space (R28). -/
theorem offset_eq_iff {s : State} {n : Nat} (hn : n < 2 ^ 32) : s.offset = n ↔ s.pc = s.base + BitVec.ofNat 32 n := by
  have hnat : s.offset = n ↔ s.pc - s.base = BitVec.ofNat 32 n := by
    rw [← BitVec.toNat_inj, BitVec.toNat_ofNat, Nat.mod_eq_of_lt hn]
    rfl
  rw [hnat, BitVec.sub_eq_iff_eq_add, BitVec.add_comm]

/-- Settles O28: the three kinds of stop are the fetch's, in the order it tests them. -/
theorem stepStopsWhereTheSpecRefuses : Obligations.StepStopsWhereTheSpecRefuses := by
  intro s
  refine ⟨fun v => ?_, fun k c why hcfg hk hc hd => ?_, fun hcfg hn => ?_⟩
  · rw [step_refused_iff_of_ne (by simp), fetchInstr_reservedIdBits_iff, configAdmitted_eq_false_iff]
    exact and_congr_right fun hv => by rw [hv]
  · obtain ⟨hon, hplace⟩ := onPlace_and_place_iff.mpr hk
    have hcode : s.currentCode = some c := currentCode_eq_some_iff.mpr ⟨hon, hplace ▸ hc⟩
    simp [step, fetchInstr_of_decode_error hcfg hcode hd]
  · rw [step_refused_iff_of_ne (by simp), fetchInstr_endOfProgram_iff hcfg, ← offset_eq_iff (by omega),
      ← onPlace_and_place_iff]
    simp [State.atEnd]

end Sys2Proof.Machine
end

section
/-!
Which register an access can reach, by level (R60, R65, R102), and so what a step can change: ICV_CTLR and each of the
three physical targets.
-/
namespace Sys2Proof.Machine

/-- EL1 reaches ICV_CTLR by a lever of EL2; else the bank `SCR.NS` chooses with EL3, the one register without (rows
E1.5 to E1.8, E1.11, E1.12). -/
theorem routeEl1_register {cfg : Cfg} {ctx : Ctx} {r : Target} (h : routeEl1 cfg ctx = .register r) :
    (el2Lever cfg ctx = true ∧ r = .icv) ∨
      (el2Lever cfg ctx = false ∧ r = if cfg.haveEl3 then bankOf ctx.scrNs else .icc) := by
  cases hl : el2Lever cfg ctx with
  | true =>
    left
    cases ht : ctx.el2Enabled && (ctx.t12 || ctx.tc) with
    | true => simp [routeEl1_of_trapped ht] at h
    | false => simpa [routeEl1_of_redirected ht hl, eq_comm] using h
  | false =>
    rw [routeEl1_of_no_lever hl] at h
    split_ifs at h <;> simp_all

/-- The physical target of EL2: the Non-secure bank with EL3, the one register without (rows E2.4, E2.5). -/
theorem routeEl2_register {cfg : Cfg} {ctx : Ctx} {r : Target} (h : routeEl2 cfg ctx = .register r) :
    r = if cfg.haveEl3 then .iccNs else .icc := by
  unfold routeEl2 at h
  split_ifs at h <;> simp_all

/-- The physical target of EL3: the bank `SCR.NS` chooses (rows E3.2, E3.3). -/
theorem routeEl3_register {ctx : Ctx} {r : Target} (h : routeEl3 ctx = .register r) : r = bankOf ctx.scrNs := by
  unfold routeEl3 at h
  split_ifs at h
  simpa [eq_comm] using h

/-- Which register the route reaches, level by level; none from EL0. -/
theorem route_register_cases {cfg : Cfg} {ctx : Ctx} {r : Target} (h : route cfg ctx = .register r) :
    (ctx.el = .el1 ∧ el2Lever cfg ctx = true ∧ r = .icv) ∨
    (ctx.el = .el1 ∧ r = if cfg.haveEl3 then bankOf ctx.scrNs else .icc) ∨
    (ctx.el = .el2 ∧ r = if cfg.haveEl3 then .iccNs else .icc) ∨
    (ctx.el = .el3 ∧ r = bankOf ctx.scrNs) := by
  unfold route at h
  cases hel : ctx.el with
  | el0 => simp [hel] at h
  | el1 =>
    simp only [hel] at h
    rcases routeEl1_register h with ⟨hl, rfl⟩ | ⟨_, rfl⟩ <;> simp [*]
  | el2 => simp [routeEl2_register (by simpa [hel] using h)]
  | el3 => simp [routeEl3_register (by simpa [hel] using h)]

/-- ICV_CTLR is "not banked" (R102). -/
@[simp] theorem bankOf_ne_icv (ns : Bool) : bankOf ns ≠ .icv := by
  cases ns <;> decide

@[simp] theorem bankOf_ne_icc (ns : Bool) : bankOf ns ≠ .icc := by
  cases ns <;> decide

@[simp] theorem bankOf_eq_iccS_iff {ns : Bool} : bankOf ns = .iccS ↔ ns = false := by
  cases ns <;> decide

@[simp] theorem bankOf_eq_iccNs_iff {ns : Bool} : bankOf ns = .iccNs ↔ ns = true := by
  cases ns <;> decide

/-- ICV_CTLR is reached only from EL1 with EL2 enabled (R65 (b), (d)). -/
theorem el1_of_route_icv {cfg : Cfg} {ctx : Ctx} (h : route cfg ctx = .register .icv) :
    ctx.el = .el1 ∧ ctx.el2Enabled = true := by
  rcases route_register_cases h with ⟨hel, hl, _⟩ | ⟨_, hr⟩ | ⟨_, hr⟩ | ⟨_, hr⟩
  · exact ⟨hel, (Bool.and_eq_true_iff.mp hl).1⟩
  · split at hr
    · exact absurd hr.symm (bankOf_ne_icv _)
    · cases hr
  · split at hr <;> cases hr
  · exact absurd hr.symm (bankOf_ne_icv _)

/-- Settles O30: `execMrc_next` and `execMcr_next` leave one case that changes ICV_CTLR. -/
theorem icvChangesOnlyByVirtualisedWrite : Obligations.IcvChangesOnlyByVirtualisedWrite := by
  intro s s' h
  obtain ⟨i, hf, he⟩ := step_next_iff.mp h
  cases i with
  | mrc t =>
    obtain ⟨_, _, _, _, _, rfl⟩ := execMrc_next he
    exact .inl rfl
  | mcr t =>
    obtain ⟨k, _, ⟨hr, rfl⟩ | ⟨_, _, _, _, rfl⟩⟩ := execMcr_next he
    · obtain ⟨hel, hel2⟩ := el1_of_route_icv hr
      exact .inr ⟨hel, hel2, hr, ⟨t, hf⟩, ⟨_, write_now ..⟩, ⟨_, write_now ..⟩⟩
    · exact .inl rfl

/-- A step that completes was routed to a register, and changes no physical target but that one. -/
theorem step_next_phys {s s' : State} (h : step s = .next s') :
    ∃ target, route s.cfg s.ctx = .register target ∧
      (s'.phys = s.phys ∨ ∃ v, s'.phys = s.phys.put v target) := by
  obtain ⟨i, _, he⟩ := step_next_iff.mp h
  cases i with
  | mrc t =>
    rw [exec_mrc, access_next_iff] at he
    obtain ⟨_, target, _, hr, rfl⟩ := he
    obtain ⟨_, _, hread⟩ := readTarget_state s target
    exact ⟨target, hr, .inl (by simp [hread])⟩
  | mcr t =>
    obtain ⟨_, _, ⟨hr, rfl⟩ | ⟨target, v, _, hr, rfl⟩⟩ := execMcr_next he
    · exact ⟨.icv, hr, .inl rfl⟩
    · exact ⟨target, hr, .inr ⟨v, rfl⟩⟩

/-- A new content of one target changes that target alone (R26). -/
theorem put_frame (p : Phys) (v : Word) (r : Target) :
    ((p.put v r).iccCtlr ≠ p.iccCtlr → r = .icc) ∧ ((p.put v r).iccCtlrS ≠ p.iccCtlrS → r = .iccS) ∧
      ((p.put v r).iccCtlrNs ≠ p.iccCtlrNs → r = .iccNs) := by
  cases r <;> simp [Phys.put]

/-- In a context R25 admits, which physical target a route can reach (R65 (c), R102). -/
theorem route_physical {cfg : Cfg} {ctx : Ctx} {r : Target} (hadm : ctx.admitted cfg = true)
    (h : route cfg ctx = .register r) :
    (r = .icc → cfg.haveEl3 = false ∧ ctx.el ≠ .el3) ∧
    (r = .iccS → cfg.haveEl3 = true ∧ ctx.scrNs = false ∧ (ctx.el = .el1 ∨ ctx.el = .el3)) ∧
    (r = .iccNs → cfg.haveEl3 = true ∧ (ctx.el = .el2 ∨ ctx.scrNs = true)) ∧ ctx.el ≠ .el0 := by
  rcases route_register_cases h with ⟨hel, _, rfl⟩ | ⟨hel, rfl⟩ | ⟨hel, rfl⟩ | ⟨hel, rfl⟩
  · simp [hel]
  · cases cfg.haveEl3 <;> simp [hel]
  · cases cfg.haveEl3 <;> simp [hel]
  · have h3 : cfg.haveEl3 = true := by simp_all [Ctx.admitted]
    simp [hel, h3]

/-- Settles O31: a changed target is the one the step was routed to. -/
theorem physicalTargetsAreBanked : Obligations.PhysicalTargetsAreBanked := by
  intro s s' hadm h
  obtain ⟨target, hr, hphys⟩ := step_next_phys h
  obtain ⟨hicc, hs, hns, hel⟩ := route_physical hadm hr
  rcases hphys with e | ⟨v, e⟩
  · simp [e, hel]
  · obtain ⟨picc, ps, pns⟩ := put_frame s.phys v target
    rw [e]
    exact ⟨hicc ∘ picc, hs ∘ ps, hns ∘ pns, hel⟩

end Sys2Proof.Machine
end

section
/-!
Opacity of the physical targets (R26, D10): each operation commutes with replacing what they hold.
-/
namespace Sys2Proof.Machine

/-- The value of a field is taken without the physical targets. -/
theorem fieldVal_withPhys (f : FieldVal) (s : State) (p : Phys) :
    { s with phys := p }.fieldVal f = ((s.fieldVal f).1, { (s.fieldVal f).2 with phys := p }) := by
  cases f <;> rfl

/-- A read of any target, a physical one too, returns the same value whatever the physical targets hold. -/
theorem readTarget_withPhys (s : State) (p : Phys) (target : Target) :
    { s with phys := p }.readTarget target =
      ((s.readTarget target).1, { (s.readTarget target).2 with phys := p }) := by
  cases target with
  | icv => simp [State.readTarget, State.readIcv, fieldVal_withPhys]
  | _ => rfl

/-- A write of any target changes everything but the physical targets alike, whatever they hold. -/
theorem writeTarget_withPhys (w : Word) (s : State) (p : Phys) (target : Target) :
    ∃ q, { s with phys := p }.writeTarget w target = { s.writeTarget w target with phys := q } := by
  cases target <;> exact ⟨_, rfl⟩

/-- Two outcomes stop alike, or go on to states that agree in everything but the physical targets. -/
def AgreeButPhys (a b : Host.Outcome State Fault Refusal) : Prop :=
  (∃ f, a = .fault f ∧ b = .fault f) ∨ (∃ r, a = .refused r ∧ b = .refused r) ∨
    ∃ s s', a = .next s ∧ b = .next s' ∧ s' = { s with phys := s'.phys }

/-- An access agrees but for the physical targets where its action does: operand and route read none of them. -/
theorem access_withPhys {act : Target → Fin 15 → State → State} {s : State} {p : Phys} (dir : Dir) (t : BitVec 4)
    (hact : ∀ target i, ∃ q, act target i { s with phys := p } = { act target i s with phys := q }) :
    AgreeButPhys (access dir t act s) (access dir t act { s with phys := p }) := by
  unfold access
  cases gprIndex t with
  | none => exact .inr (.inl ⟨_, rfl, rfl⟩)
  | some i =>
    cases hr : route s.cfg s.ctx with
    | trap trap => exact .inl ⟨_, rfl, by cases trap <;> rfl⟩
    | register target =>
      obtain ⟨q, hq⟩ := hact target i
      exact .inr (.inr ⟨_, _, rfl, rfl, by rw [hq]; rfl⟩)

/-- Settles O38: reads and writes of the targets agree but for what the physical ones hold. -/
theorem physicalTargetsAreOpaque : Obligations.PhysicalTargetsAreOpaque := by
  intro i s p
  change AgreeButPhys (exec i s) (exec i { s with phys := p })
  cases i with
  | mrc t =>
    simp only [exec_mrc]
    exact access_withPhys .read t fun target i => ⟨p, by rw [readTarget_withPhys]; rfl⟩
  | mcr t =>
    simp only [exec_mcr]
    exact access_withPhys .write t fun target i => writeTarget_withPhys (s.readX i) s p target

end Sys2Proof.Machine
end

section
/-!
What a use of EOImode or CBPR can see (R45, R89): a visible value, hence the one bit of a settled field and the old or
the new bit of a field first written under draw_until_sync.
-/
namespace Sys2Proof.Machine

/-- `MCR(t)` routed to ICV_CTLR is `writeIcv` and the pc's advance (R62). -/
theorem exec_mcr_of_route_icv {s : State} {t : BitVec 4} {i : Fin 15} (ht : t.toNat = i)
    (hr : route s.cfg s.ctx = .register .icv) : exec (.mcr t) s = .next (s.writeIcv (s.readX i)).advancePc :=
  exec_mcr_of_route ht hr

/-- An `MCR` that completes with the route at ICV_CTLR left it written with a word, under the setting of SYNC. -/
theorem exec_mcr_next_icv {s s' : State} {t : BitVec 4} (hr : route s.cfg s.ctx = .register .icv)
    (h : exec (.mcr t) s = .next s') : ∃ w, s'.icv = s.icv.write s.cfg.sync w := by
  rw [exec_mcr, access_next_iff] at h
  obtain ⟨i, target, _, htarget, rfl⟩ := h
  obtain rfl : .icv = target := by simpa [hr] using htarget
  exact ⟨s.readX i, rfl⟩

/-- Settles O21: after the write, `write_immediate_old` and `write_drawUntilSync_old` give the two lists. -/
theorem mcrOldValuesBySync : Obligations.McrOldValuesBySync := by
  intro s s' t hr h
  obtain ⟨w, hicv⟩ := exec_mcr_next_icv hr h
  exact ⟨fun hsync => by simp [hicv, hsync], fun hsync => by simp [hicv, hsync]⟩

/-- The current value of a field is always visible. -/
theorem now_mem_visible (sync : Sync) (f : RwField) : f.now ∈ f.visible sync := by
  cases sync <;> simp [RwField.visible]

/-- The free choice at a use is one of the visible values (R45). -/
theorem pickVisible_mem_visible (s : State) (f : RwField) : (s.pickVisible f).1 ∈ f.visible s.cfg.sync := by
  have hpos : 0 < (f.visible s.cfg.sync).length := List.length_pos_of_mem (now_mem_visible s.cfg.sync f)
  have hlt := Nat.mod_lt (Config.pick s.draws) hpos
  simp only [State.pickVisible, List.getD_eq_getElem _ _ hlt, List.getElem_mem]

/-- A use of a field gives a visible bit, unless an `Unknown` value is visible (R45, R89). -/
theorem useField_mem_visible (s : State) (f : RwField) :
    .unknown ∈ f.visible s.cfg.sync ∨ .known (s.useField f).1 ∈ f.visible s.cfg.sync := by
  have hmem := pickVisible_mem_visible s f
  unfold State.useField
  cases hp : (s.pickVisible f).1 with
  | known b => exact .inr (by simpa [hp] using hmem)
  | unknown => exact .inl (hp ▸ hmem)

/-- A field with nothing pending has one visible value, whatever SYNC is. -/
theorem visible_of_old_nil {f : RwField} (hold : f.old = []) (sync : Sync) : f.visible sync = [f.now] := by
  cases sync <;> simp [RwField.visible, hold]

/-- A use of a `Known` field with nothing pending sees its bit, whatever SYNC is. -/
theorem useField_of_settled {f : RwField} {b : BitVec 1} (s : State) (hnow : f.now = .known b) (hold : f.old = []) :
    (s.useField f).1 = b := by
  simpa [visible_of_old_nil hold, hnow] using useField_mem_visible s f

/-- A use of a field written with immediate effect sees the written bit. -/
theorem useField_write_immediate {s : State} (hsync : s.cfg.sync = .immediate) (f : RwField) (b : BitVec 1) :
    (s.useField (f.write s.cfg.sync b)).1 = b :=
  useField_of_settled s (write_now ..) (by rw [hsync, write_immediate_old])

/-- A use of a `Known` field with nothing pending, written under draw_until_sync, sees the old bit or the written
one. -/
theorem useField_write_drawUntilSync {s : State} {f : RwField} {a : BitVec 1} (hsync : s.cfg.sync = .drawUntilSync)
    (hf : f = { now := .known a, old := [] }) (b : BitVec 1) :
    (s.useField (f.write s.cfg.sync b)).1 = a ∨ (s.useField (f.write s.cfg.sync b)).1 = b := by
  have hvisible : (f.write s.cfg.sync b).visible s.cfg.sync = [.known b, .known a] := by rw [hsync, hf]; rfl
  have hmem := useField_mem_visible s (f.write s.cfg.sync b)
  rw [hvisible] at hmem
  simpa [or_comm] using hmem

/-- After a synchronisation event a use of EOImode sees the current bit (R45). -/
theorem useEoimode_synchronise {s : State} {b : BitVec 1} (h : s.icv.eoimode.now = .known b) :
    s.synchronise.useEoimode.1 = b :=
  useField_of_settled _ h rfl

/-- After a synchronisation event a use of CBPR sees the current bit (R45). -/
theorem useCbpr_synchronise {s : State} {b : BitVec 1} (h : s.icv.cbpr.now = .known b) :
    s.synchronise.useCbpr.1 = b :=
  useField_of_settled _ h rfl

/-- An access to ICV_DIR that sees EOImode 1 deactivates (R81). -/
theorem dirAccess_of_useEoimode_eq_one {s : State} (h : s.useEoimode.1 = 1) : s.dirAccess.1 = .ok [.deactivate] := by
  simp [State.dirAccess, dirAccess, h]

/-- Settles O47: both fields are written with immediate effect, so `useField_write_immediate` gives their uses. -/
theorem usesSeeAnImmediateWrite : Obligations.UsesSeeAnImmediateWrite := by
  intro s t i ht hr hsync
  have hsync1 : (s.writeIcv (s.readX i)).advancePc.cfg.sync = .immediate := hsync
  have heoimode := useField_write_immediate hsync1 s.icv.eoimode (eoimodeBit (s.readX i))
  have hcbpr := useField_write_immediate hsync1 s.icv.cbpr (cbprBit (s.readX i))
  exact ⟨_, exec_mcr_of_route_icv ht hr, heoimode, hcbpr,
    fun hone => dirAccess_of_useEoimode_eq_one (heoimode.trans hone)⟩

/-- Settles O48: before a synchronisation event both bits are visible, after one only the written bit. -/
theorem usesSeeOldOrNewUntilSync : Obligations.UsesSeeOldOrNewUntilSync := by
  intro s t i e c ht hr hsync he hc
  have hsync1 : (s.writeIcv (s.readX i)).advancePc.cfg.sync = .drawUntilSync := hsync
  exact ⟨_, exec_mcr_of_route_icv ht hr,
    useField_write_drawUntilSync hsync1 he (eoimodeBit (s.readX i)),
    useField_write_drawUntilSync hsync1 hc (cbprBit (s.readX i)),
    useEoimode_synchronise (write_now ..), useCbpr_synchronise (write_now ..)⟩

end Sys2Proof.Machine
end

section
/-!
The decoder over the field tuple (R52 to R56): its tests once, the name each refusal has, and the tuples it reads an
instruction from. R53's placement of the fields carries them to words.
-/
namespace Sys2Proof

/-- The tuple has the fixed bits and the five numbers of R52, whatever its `cond`, `L` and `Rt`. -/
def InstrFields.inRow (f : InstrFields) : Prop := f.fixed = fixedBits ∧ f.bit4 = 1 ∧ f.addr = icvCtlrAddr

variable {iset : ISet} {block : CondBlock} {f : InstrFields} {i : Instr} {w : Word}

/-- In scope is the row of the opcode table, and in T32 also the fixed top bits (R53, R54). -/
theorem inScope_iff : f.inScope iset = true ↔ f.inRow ∧ (iset = .t32 → f.cond = condAlways) := by
  simp only [InstrFields.inScope, InstrFields.inRow, Bool.and_eq_true, beq_iff_eq]
  cases iset with
  | a32 => simp [topBitsInScope, and_assoc]
  | t32 =>
    simp only [topBitsInScope, beq_iff_eq, forall_const]
    tauto

/-- The forms R55 refuses: in A32 by the condition, in T32 by the place. -/
theorem isConditional_iff : isConditional iset block f = true ↔
    (iset = .a32 ∧ f.cond ≠ condAlways) ∨ (iset = .t32 ∧ block = .inside) := by
  cases iset <;> simp [isConditional]

/-- What is in scope in the unconditional form: the row with the always condition, in T32 outside any block (R55). -/
theorem unconditional_iff : f.inScope iset = true ∧ isConditional iset block f = false ↔
    (iset = .t32 → block = .outside) ∧ f.inRow ∧ f.cond = condAlways := by
  rw [inScope_iff]
  cases iset with
  | a32 => simp [isConditional]
  | t32 => cases block <;> simp [isConditional]

/-- The scope test comes first (R54, log 16). -/
theorem decodeFields_notInScope_iff : decodeFields iset block f = .error .notInScope ↔ f.inScope iset = false := by
  unfold decodeFields
  split_ifs <;> simp_all

/-- The test of the form comes second, before `Rt` is looked at (R55, log 16). -/
theorem decodeFields_conditionalForm_iff : decodeFields iset block f = .error .conditionalForm ↔
    f.inScope iset = true ∧ isConditional iset block f = true := by
  unfold decodeFields
  split_ifs <;> simp_all

/-- The test of `Rt` comes last (R56). -/
theorem decodeFields_registerFifteen_iff : decodeFields iset block f = .error .registerFifteen ↔
    (f.inScope iset = true ∧ isConditional iset block f = false) ∧ f.rt = 15 := by
  unfold decodeFields
  split_ifs <;> simp_all

/-- What passes the three tests is read by its `L` (R53). -/
theorem decodeFields_ok_iff : decodeFields iset block f = .ok i ↔
    (f.inScope iset = true ∧ isConditional iset block f = false) ∧ f.rt ≠ 15 ∧
      (if f.l = 1 then Instr.mrc f.rt else Instr.mcr f.rt) = i := by
  unfold decodeFields
  split_ifs <;> simp_all

/-- `L` and `Rt` are an instruction's exactly when they choose it (R53). -/
theorem instr_of_l_rt_iff {l : BitVec 1} {t : BitVec 4} :
    (if l = 1 then Instr.mrc t else Instr.mcr t) = i ↔ l = i.dir.bit ∧ t = i.rt := by
  have hl : l = 0 ∨ l = 1 := by revert l; decide
  obtain rfl | rfl := hl <;> cases i <;> simp [Instr.dir, Dir.bit, Instr.rt]

/-- R56 admits every `t` but 15. -/
theorem wf_iff : i.wf = true ↔ i.rt ≠ 15 := by
  cases i <;> simp [Instr.wf, Instr.rt]

/-- The tuple of an instruction: the row, the always condition, and its `L` and `Rt` (R53, R55). -/
theorem eq_fieldsOf_iff : f = fieldsOf i ↔ (f.inRow ∧ f.cond = condAlways) ∧ f.l = i.dir.bit ∧ f.rt = i.rt := by
  cases f
  simp only [fieldsOf, InstrFields.inRow, InstrFields.addr, icvCtlrAddr, InstrFields.mk.injEq, SysRegAddr.mk.injEq]
  tauto

/-- The decoder reads an instruction from its own tuple alone, and there unless R55 or R56 refuses it. -/
theorem decodeFields_ok_iff_fieldsOf : decodeFields iset block f = .ok i ↔
    (iset = .t32 → block = .outside) ∧ i.wf = true ∧ f = fieldsOf i := by
  rw [decodeFields_ok_iff, unconditional_iff, instr_of_l_rt_iff, wf_iff, eq_fieldsOf_iff]
  constructor
  · rintro ⟨⟨hblock, hrow⟩, hrt, hl, ht⟩
    exact ⟨hblock, ht ▸ hrt, hrow, hl, ht⟩
  · rintro ⟨hblock, hrt, hrow, hl, ht⟩
    exact ⟨⟨hblock, hrow⟩, ht ▸ hrt, hl, ht⟩

/-- A tuple is the one of a word exactly when the word is the one of the tuple (R53). -/
theorem ofWord_eq_iff : InstrFields.ofWord w = f ↔ f.toWord = w :=
  ⟨fun h => h ▸ toWord_ofWord w, fun h => h ▸ ofWord_toWord f⟩

/-- The decoder reads an instruction from its own encoding alone, and there unless R55 or R56 refuses it. -/
theorem decode_ok_iff : decode iset block w = .ok i ↔
    (iset = .t32 → block = .outside) ∧ i.wf = true ∧ encode i = w := by
  rw [decode, decodeFields_ok_iff_fieldsOf, ofWord_eq_iff, encode]

/-- Settles O1: over tuples it is `decodeFields_ok_iff_fieldsOf`, and words and tuples carry the same bits. -/
theorem decodeAcceptsExactlyTheEncodings : Obligations.DecodeAcceptsExactlyTheEncodings :=
  fun _ _ _ _ => decode_ok_iff

/-- Settles O3, by evaluating the decoder. -/
theorem specWordsDecode : Obligations.SpecWordsDecode := by
  unfold Obligations.SpecWordsDecode
  decide

end Sys2Proof
end

section
/-!
The decoder by the masks of the opcode table (R53 to R56): a masked comparison of words is one of each field.
-/
namespace Sys2Proof

variable {iset : ISet} {block : CondBlock} {w : Word}

/-- A word under a mask is a value exactly when every field under the mask's field is the value's field (R53). -/
theorem and_eq_iff_fields {m v : Word} {f g h : InstrFields} (hf : InstrFields.ofWord w = f)
    (hg : InstrFields.ofWord m = g) (hh : InstrFields.ofWord v = h) :
    w &&& m = v ↔ f.cond &&& g.cond = h.cond ∧ f.fixed &&& g.fixed = h.fixed ∧ f.opc1 &&& g.opc1 = h.opc1 ∧
      f.l &&& g.l = h.l ∧ f.crn &&& g.crn = h.crn ∧ f.rt &&& g.rt = h.rt ∧ f.coproc &&& g.coproc = h.coproc ∧
      f.opc2 &&& g.opc2 = h.opc2 ∧ f.bit4 &&& g.bit4 = h.bit4 ∧ f.crm &&& g.crm = h.crm := by
  have hinj : InstrFields.ofWord (w &&& m) = InstrFields.ofWord v ↔ w &&& m = v := by
    rw [ofWord_eq_iff, toWord_ofWord, eq_comm]
  subst hf hg hh
  rw [← hinj]
  simp only [InstrFields.ofWord, BitVec.extractLsb'_and, InstrFields.mk.injEq]

/-! A field wholly under the mask, in the literals `simp` leaves for `BitVec.allOnes`. -/

@[simp] theorem and_mask4 (x : BitVec 4) : x &&& 15#4 = x := BitVec.and_allOnes
@[simp] theorem and_mask3 (x : BitVec 3) : x &&& 7#3 = x := BitVec.and_allOnes
@[simp] theorem and_mask1 (x : BitVec 1) : x &&& 1#1 = x := BitVec.and_allOnes

/-- The mask of the row MRC or MCR, with any `cond`, `L` and `Rt` (R53). -/
theorem inRow_ofWord_iff : (InstrFields.ofWord w).inRow ↔ w &&& 0x0FEF0FFF = 0x0E0C0F9C := by
  rw [and_eq_iff_fields rfl rfl rfl]
  simp [InstrFields.inRow, InstrFields.addr, icvCtlrAddr, fixedBits, InstrFields.ofWord]
  tauto

/-- The mask of the condition (R53). -/
theorem cond_ofWord_iff : (InstrFields.ofWord w).cond = condAlways ↔ w &&& 0xF0000000 = 0xE0000000 := by
  rw [and_eq_iff_fields rfl rfl rfl]
  simp [InstrFields.ofWord, condAlways]

/-- The mask of the row and that of the condition together (R53, R55). -/
theorem and_rowAlways_iff : w &&& 0xFFEF0FFF = 0xEE0C0F9C ↔
    w &&& 0x0FEF0FFF = 0x0E0C0F9C ∧ w &&& 0xF0000000 = 0xE0000000 := by
  rw [and_eq_iff_fields rfl rfl rfl, and_eq_iff_fields rfl rfl rfl, and_eq_iff_fields rfl rfl rfl]
  simp [InstrFields.ofWord, and_comm]

/-- The same mask with `Rt` in it, at the value 15 (R56). -/
theorem and_rowAlwaysFifteen_iff : w &&& 0xFFEFFFFF = 0xEE0CFF9C ↔
    w &&& 0xFFEF0FFF = 0xEE0C0F9C ∧ (InstrFields.ofWord w).rt = 15 := by
  rw [and_eq_iff_fields rfl rfl rfl, and_eq_iff_fields rfl rfl rfl]
  simp [InstrFields.ofWord]
  tauto

/-- The words refused for `Rt = 15` (R56). -/
theorem decode_registerFifteen_iff : decode iset block w = .error .registerFifteen ↔
    (iset = .t32 → block = .outside) ∧ w &&& 0xFFEFFFFF = 0xEE0CFF9C := by
  rw [decode, decodeFields_registerFifteen_iff, unconditional_iff, inRow_ofWord_iff, cond_ofWord_iff,
    ← and_rowAlways_iff, and_rowAlwaysFifteen_iff, and_assoc]

/-- In scope by the masks (R53, R54). -/
theorem inScope_ofWord_iff : (InstrFields.ofWord w).inScope iset = true ↔
    w &&& 0x0FEF0FFF = 0x0E0C0F9C ∧ (iset = .t32 → w &&& 0xF0000000 = 0xE0000000) := by
  rw [inScope_iff, inRow_ofWord_iff, cond_ofWord_iff]

/-- The words refused as conditional forms, in A32 for their condition and in T32 for their place (R55). -/
theorem decode_conditionalForm_iff : decode iset block w = .error .conditionalForm ↔
    (iset = .a32 ∧ w &&& 0x0FEF0FFF = 0x0E0C0F9C ∧ w &&& 0xF0000000 ≠ 0xE0000000) ∨
    (iset = .t32 ∧ w &&& 0xFFEF0FFF = 0xEE0C0F9C ∧ block = .inside) := by
  rw [decode, decodeFields_conditionalForm_iff, inScope_ofWord_iff, isConditional_iff, ne_eq, cond_ofWord_iff,
    and_rowAlways_iff]
  cases iset <;> simp

/-- The words not in scope (R54). -/
theorem decode_notInScope_iff : decode iset block w = .error .notInScope ↔
    w &&& 0x0FEF0FFF ≠ 0x0E0C0F9C ∨ (iset = .t32 ∧ w &&& 0xF0000000 ≠ 0xE0000000) := by
  rw [decode, decodeFields_notInScope_iff, ← Bool.not_eq_true, inScope_ofWord_iff, not_and_or, Classical.not_imp]

/-- Settles O2, one name at a time. -/
theorem decodeRefusesEveryOtherWordByName : Obligations.DecodeRefusesEveryOtherWordByName :=
  fun _ _ _ => ⟨decode_registerFifteen_iff, decode_conditionalForm_iff, decode_notInScope_iff⟩

end Sys2Proof
end

section
/-!
The T32 stream of halfwords (R53, R54): the two halfwords of an instruction are its word, and the first of them always
begins a 32-bit instruction.
-/
namespace Sys2Proof

/-- The word of an instruction is `hw1` above `hw2` exactly when these are its two halfwords (R53). -/
theorem encode_eq_append_iff {i : Instr} {hw1 hw2 : Half} :
    encode i = hw1 ++ hw2 ↔ encodeHalfwords i = [hw1, hw2] := by
  unfold encodeHalfwords
  generalize encode i = w
  constructor
  · rintro rfl
    rw [BitVec.extractLsb'_append_eq_left, BitVec.extractLsb'_append_eq_right]
  · intro h
    obtain ⟨rfl, rfl⟩ : w.extractLsb' 16 16 = hw1 ∧ w.extractLsb' 0 16 = hw2 := by simpa using h
    rw [BitVec.extractLsb'_append_extractLsb'_eq_extractLsb' (by rfl), BitVec.extractLsb'_eq_self]

/-- The first halfword of an instruction is `0xEE1C` or `0xEE0C` (R54). -/
theorem beginsLong_encode (i : Instr) : beginsLong ((encode i).extractLsb' 16 16) = true := by
  cases i with
  | mrc t => revert t; decide
  | mcr t => revert t; decide

/-- A stream decodes exactly when its first two halfwords are there and the word they make decodes (R54). -/
theorem decodeHalfwords_ok_iff {block : CondBlock} {hs rest : List Half} {i : Instr} :
    decodeHalfwords block hs = .ok (i, rest) ↔
      ∃ hw1 hw2, hs = hw1 :: hw2 :: rest ∧ beginsLong hw1 = true ∧ decode .t32 block (hw1 ++ hw2) = .ok i := by
  match hs with
  | [] => simp [decodeHalfwords]
  | [_] => simp [decodeHalfwords]
  | hw1 :: hw2 :: tail =>
    cases hlong : beginsLong hw1 with
    | false => simp [decodeHalfwords, hlong]
    | true => cases hd : decode .t32 block (hw1 ++ hw2) <;> simp [decodeHalfwords, hlong, hd, Except.map, and_comm]

/-- Settles O4: the word of the first two halfwords decodes as `decode_ok_iff` says. -/
theorem halfwordStreamDecodesExactly : Obligations.HalfwordStreamDecodesExactly := by
  intro block hs rest i
  rw [decodeHalfwords_ok_iff]
  constructor
  · rintro ⟨hw1, hw2, rfl, _, hdecode⟩
    obtain ⟨hblock, hwf, hword⟩ := decode_ok_iff.mp hdecode
    exact ⟨hblock rfl, hwf, by rw [encode_eq_append_iff.mp hword]; rfl⟩
  · rintro ⟨rfl, hwf, rfl⟩
    exact ⟨_, _, rfl, beginsLong_encode i, decode_ok_iff.mpr ⟨fun _ => rfl, hwf, encode_eq_append_iff.mpr rfl⟩⟩

end Sys2Proof
end

section
/-!
The refusals of R55 and R56 on the machine: by an instruction for `t = 15` alone, by a step for what its word's decoder
refuses.
-/
namespace Sys2Proof.Machine

/-- Settles O5: it is `exec_refused_iff`. -/
theorem onlyRegisterFifteenIsRefused : Obligations.OnlyRegisterFifteenIsRefused :=
  fun _ _ _ => exec_refused_iff

/-- With the pc at place `k` the text there is the program's `k`-th entry (R115). -/
theorem currentCode_of_offset {s : State} {k : Nat} {c : CodeWord} (hk : s.offset = 4 * k)
    (hc : s.program[k]? = some c) : s.currentCode = some c := by
  obtain ⟨hon, hplace⟩ := onPlace_and_place_iff.mpr hk
  exact currentCode_eq_some_iff.mpr ⟨hon, hplace ▸ hc⟩

/-- With a text at the pc the fetch refuses an instruction exactly when the decoder does, for its reason (R54). -/
theorem fetchInstr_instruction_iff {s : State} {c : CodeWord} {why : InstrRefusal} (hcfg : configAdmitted s.cfg = true)
    (hc : s.currentCode = some c) :
    fetchInstr s = .error (.instruction why) ↔ decode s.cfg.iset c.block c.word = .error why := by
  unfold fetchInstr
  cases hd : decode s.cfg.iset c.block c.word <;> simp [hcfg, hc, hd]

/-- Settles O50: the step's refusal is the decoder's, which `decode_conditionalForm_iff` gives by the masks. -/
theorem stepRefusesConditionalForms : Obligations.StepRefusesConditionalForms := by
  intro s k c hcfg hk hc
  have hstep : step s = .refused (.instruction .conditionalForm) ↔
      decode s.cfg.iset c.block c.word = .error .conditionalForm := by
    rw [step_refused_iff_of_ne (by simp), fetchInstr_instruction_iff hcfg (currentCode_of_offset hk hc)]
  rw [hstep, decode_conditionalForm_iff]
  refine ⟨fun hiset hrow => ?_, fun hiset hrow => ?_⟩ <;>
    simp only [hiset, hrow, reduceCtorEq, true_and, false_and, or_false, false_or]

end Sys2Proof.Machine
end

section
/-!
The frame of the two accesses (R61, R62): what each route reads or writes, and when an access completes at all.
-/
namespace Sys2Proof.Machine

/-- Settles O17: the value read is the one `readIcv_spec` assembles. -/
theorem mrcReadsIcvCtlr : Obligations.MrcReadsIcvCtlr := by
  intro s t i ht hr
  obtain ⟨e, c, n, he, hc, hn, hread⟩ := readIcv_spec s
  refine ⟨e, c, n, he, hc, hn, ?_⟩
  rw [exec_mrc_of_route ht hr, State.readTarget, hread]
  rfl

/-- A read of a physical target is one draw (R26, D10). -/
theorem readTarget_of_ne_icv {target : Target} (h : target ≠ .icv) (s : State) : s.readTarget target = s.draw 32 := by
  cases target with
  | icv => exact absurd rfl h
  | _ => rfl

/-- Settles O19: the value read is the draw. -/
theorem mrcReadsPhysicalTarget : Obligations.MrcReadsPhysicalTarget := by
  intro s t i target ht hne hr
  refine ⟨(s.draw 32).1, ?_⟩
  rw [exec_mrc_of_route ht hr, readTarget_of_ne_icv hne]
  rfl

/-- Settles O22: the value left in the target is the draw, whichever target it is. -/
theorem mcrWritesPhysicalTarget : Obligations.McrWritesPhysicalTarget := by
  intro s t i ht
  exact ⟨(s.draw 32).1, exec_mcr_of_route ht, exec_mcr_of_route ht, exec_mcr_of_route ht⟩

/-- Settles O23: `execMrc_next` gives the one register written. -/
theorem mrcFrame : Obligations.MrcFrame := by
  intro s s' t h
  obtain ⟨i, v, _, ht, _, rfl⟩ := execMrc_next h
  refine ⟨fun j hj => ?_, rfl, rfl, rfl, rfl, rfl, rfl⟩
  have hij : i ≠ j := fun e => hj (e ▸ ht)
  exact readX_writeX_of_ne s i j v hij

/-- Settles O24: `execMcr_next` leaves a write of ICV_CTLR and one of a physical target, and the route excludes one. -/
theorem mcrFrame : Obligations.McrFrame := by
  intro s s' t h
  obtain ⟨_, _, ⟨hr, rfl⟩ | ⟨target, _, hne, hr, rfl⟩⟩ := execMcr_next h
  · exact ⟨rfl, ⟨rfl, rfl, rfl, rfl⟩, fun _ => ⟨rfl, rfl⟩, fun hn => absurd hr hn⟩
  · exact ⟨rfl, ⟨rfl, rfl, rfl, rfl⟩, fun hicv => by simp [hr, hne] at hicv, fun _ => rfl⟩

/-- An instruction completes exactly when `t` is not 15 and the route reaches a register (R60, R64). -/
theorem exec_next_iff {i : Instr} {s : State} :
    (∃ s', exec i s = .next s') ↔ i.wf = true ∧ ∃ target, route s.cfg s.ctx = .register target := by
  constructor
  · rintro ⟨s', h⟩
    have hwf : i.wf = true := wf_iff.mpr fun ht => by simp [exec_refused_iff.mpr ⟨ht, rfl⟩] at h
    cases hr : route s.cfg s.ctx with
    | register target => exact ⟨hwf, target, rfl⟩
    | trap trap => simp [exec_fault_iff.mpr ⟨hwf, trap, hr, rfl⟩] at h
  · rintro ⟨hwf, target, hr⟩
    exact exec_next_of_route hwf hr

/-- Settles O10: the route takes the configuration and the context only. -/
theorem completionDependsOnContextOnly : Obligations.CompletionDependsOnContextOnly := by
  intro i j s s' hi hj hcfg hctx
  rw [exec_next_iff, exec_next_iff, hi, hj, hcfg, hctx]

end Sys2Proof.Machine
end

section
/-!
The route by its answers (R60, R65): each of the nine by the levers of EL2 and EL3, and the two readings of rows E1.7
and E1.8 compared.
-/
namespace Sys2Proof.Machine

variable {cfg : Cfg} {ctx : Ctx}

/-- The EL1 arm by its levers: EL2's trap, EL2's redirection, then EL3's trap or the physical register. -/
theorem routeEl1_eq : routeEl1 cfg ctx =
    if ctx.el2Enabled && (ctx.t12 || ctx.tc) then .trap (if ctx.el2A32 then .hyp else .el2A64)
    else if el2Lever cfg ctx then .register .icv
    else if cfg.haveEl3 && !ctx.el3A32 && ctx.scrEl3Irq && ctx.scrEl3Fiq then .trap .el3A64
    else if cfg.haveEl3 && ctx.el3A32 && !ctx.isMonitor && ctx.scrIrq && ctx.scrFiq then .trap .monitor
    else if cfg.haveEl3 then .register (bankOf ctx.scrNs) else .register .icc := by
  cases ht : ctx.el2Enabled && (ctx.t12 || ctx.tc) with
  | true => simp [routeEl1_of_trapped ht]
  | false =>
    cases hl : el2Lever cfg ctx with
    | true => simp [routeEl1_of_redirected ht hl]
    | false => simp [routeEl1_of_no_lever hl]

/-- The EL1 arm answers ICV_CTLR exactly where EL2 redirects and does not trap. -/
theorem routeEl1_icv_iff : routeEl1 cfg ctx = .register .icv ↔
    (ctx.el2Enabled && (ctx.t12 || ctx.tc)) = false ∧ el2Lever cfg ctx = true := by
  rw [routeEl1_eq]
  cases ctx.el2Enabled && (ctx.t12 || ctx.tc) with
  | true => simp
  | false =>
    cases el2Lever cfg ctx with
    | true => simp
    | false => simp; split_ifs <;> simp

/-- ICV_CTLR is reached exactly from EL1 where EL2 redirects and does not trap (R65 (a)). -/
theorem route_icv_iff : route cfg ctx = .register .icv ↔
    ctx.el = .el1 ∧ (ctx.el2Enabled && (ctx.t12 || ctx.tc)) = false ∧ el2Lever cfg ctx = true := by
  rw [← routeEl1_icv_iff]
  constructor
  · intro h
    have hel := (el1_of_route_icv h).1
    exact ⟨hel, by simpa [route, hel] using h⟩
  · rintro ⟨hel, h⟩
    simp [route, hel, h]

/-- Why R90 to R94 say each outcome is raised: the level and the control bits. -/
def TrapCause (cfg : Cfg) (ctx : Ctx) : Trap → Prop
  | .undef =>
    ctx.el = .el0 ∨ (ctx.el = .el2 ∧ ctx.iccHsreSre = false) ∨ (ctx.el = .el3 ∧ ctx.iccMsreSre = false)
  | .el2A64 =>
    ctx.el = .el1 ∧ ctx.el2Enabled = true ∧ ctx.el2A32 = false ∧ (ctx.t12 = true ∨ ctx.tc = true)
  | .hyp => ctx.el = .el1 ∧ ctx.el2Enabled = true ∧ ctx.el2A32 = true ∧ (ctx.t12 = true ∨ ctx.tc = true)
  | .el3A64 =>
    cfg.haveEl3 = true ∧ ctx.el3A32 = false ∧ ctx.scrEl3Irq = true ∧ ctx.scrEl3Fiq = true ∧
      ((ctx.el = .el1 ∧ el2Lever cfg ctx = false) ∨ (ctx.el = .el2 ∧ ctx.iccHsreSre = true))
  | .monitor =>
    cfg.haveEl3 = true ∧ ctx.el3A32 = true ∧ ctx.scrIrq = true ∧ ctx.scrFiq = true ∧
      ((ctx.el = .el1 ∧ el2Lever cfg ctx = false ∧ ctx.isMonitor = false) ∨
        (ctx.el = .el2 ∧ ctx.iccHsreSre = true))

/-- The EL1 arm raises an outcome exactly for its cause. -/
theorem routeEl1_trap_iff {trap : Trap} (hel : ctx.el = .el1) :
    routeEl1 cfg ctx = .trap trap ↔ TrapCause cfg ctx trap := by
  rw [routeEl1_eq]
  cases ht : ctx.el2Enabled && (ctx.t12 || ctx.tc) with
  | true =>
    have hl := el2Lever_of_trapped (cfg := cfg) ht
    obtain ⟨he, hbits⟩ : ctx.el2Enabled = true ∧ (ctx.t12 = true ∨ ctx.tc = true) := by simpa using ht
    cases h2 : ctx.el2A32 <;> cases trap <;> simp [TrapCause, hel, hl, he, hbits, h2]
  | false =>
    cases hl : el2Lever cfg ctx with
    | true => cases trap <;> simp_all [TrapCause]
    | false => cases trap <;> simp only [TrapCause] <;> grind

/-- The EL2 arm raises an outcome exactly for its cause. -/
theorem routeEl2_trap_iff {trap : Trap} (hel : ctx.el = .el2) :
    routeEl2 cfg ctx = .trap trap ↔ TrapCause cfg ctx trap := by
  unfold routeEl2
  split_ifs <;> cases trap <;> simp_all [TrapCause]

/-- The EL3 arm raises an outcome exactly for its cause. -/
theorem routeEl3_trap_iff {trap : Trap} (hel : ctx.el = .el3) :
    routeEl3 ctx = .trap trap ↔ TrapCause cfg ctx trap := by
  unfold routeEl3
  split_ifs <;> cases trap <;> simp_all [TrapCause]

/-- The route is an outcome exactly for its cause, in every context (R90 to R94). -/
theorem route_trap_iff {trap : Trap} : route cfg ctx = .trap trap ↔ TrapCause cfg ctx trap := by
  unfold route
  cases hel : ctx.el with
  | el0 => cases trap <;> simp [TrapCause, hel]
  | el1 => exact routeEl1_trap_iff hel
  | el2 => exact routeEl2_trap_iff hel
  | el3 => exact routeEl3_trap_iff hel

/-- Read as corrected, EL2's lever is T12, TC, FMO or IMO of the register set that matches EL2's state (R65 (a)). -/
theorem el2Lever_corrected (h : cfg.hcrRows = .corrected) :
    el2Lever cfg ctx = (ctx.el2Enabled && (ctx.t12 || ctx.tc || ctx.redirected)) := by
  cases h2 : ctx.el2A32 <;> simp [el2Lever, a32Row, Ctx.redirected, h, h2]

/-- Read literally, with EL2 using AArch32 only its traps are left of the lever (D2). -/
theorem el2Lever_literal_of_el2A32 (h : cfg.hcrRows = .literal) (h2 : ctx.el2A32 = true) :
    el2Lever cfg ctx = (ctx.el2Enabled && (ctx.t12 || ctx.tc)) := by
  simp [el2Lever, a32Row, h, h2]

/-- The reading of rows E1.7 and E1.8 reaches the route only through EL2's lever. -/
theorem route_congr_hcrRows {r r' : HcrRows}
    (hl : el2Lever { cfg with hcrRows := r } ctx = el2Lever { cfg with hcrRows := r' } ctx) :
    route { cfg with hcrRows := r } ctx = route { cfg with hcrRows := r' } ctx := by
  have h1 : routeEl1 { cfg with hcrRows := r } ctx = routeEl1 { cfg with hcrRows := r' } ctx := by
    rw [routeEl1_eq, routeEl1_eq, hl]
  unfold route
  rw [h1]
  rfl

/-- Settles O7: equal levers give one route; without a redirecting lever ICV_CTLR is out of reach. -/
theorem hcrRowReadingsCompared : Obligations.HcrRowReadingsCompared := by
  intro cfg ctx
  refine ⟨fun h2 hf hi => route_congr_hcrRows ?_, fun h2 h => ?_⟩
  · cases he : ctx.hcrEl2Fmo || ctx.hcrEl2Imo <;> simp [el2Lever, a32Row, h2, hf, hi, he]
  · obtain ⟨_, htrap, hl⟩ := route_icv_iff.mp h
    rw [el2Lever_literal_of_el2A32 rfl h2, htrap] at hl
    cases hl

/-- Settles O8: `route_icv_iff` and `route_trap_iff` give the causes, `route_physical` the banks. -/
theorem routeConsequences : Obligations.RouteConsequences := by
  intro cfg ctx
  refine ⟨fun hrows => ?_, fun hel h => hel (el1_of_route_icv h).1, fun hadm => ⟨fun h => ?_, ?_⟩,
    fun _ h2 => ⟨?_, ?_, ?_⟩, fun h => ?_, fun h => ?_, fun h => ?_, fun h => ?_, fun hel => ?_⟩
  · rw [route_icv_iff, el2Lever_corrected hrows]
    cases ctx.el2Enabled <;> cases ctx.t12 <;> cases ctx.tc <;> simp
  · obtain ⟨hicc, _⟩ := route_physical hadm h
    exact (hicc rfl).1
  · rintro (h | h | h | h)
    · obtain ⟨_, hs, _⟩ := route_physical hadm h
      exact (hs rfl).1
    · obtain ⟨_, _, hns, _⟩ := route_physical hadm h
      exact (hns rfl).1
    · exact (route_trap_iff.mp h).1
    · exact (route_trap_iff.mp h).1
  · simp [route_trap_iff, TrapCause, h2]
  · simp [route_trap_iff, TrapCause, h2]
  · simp [route_icv_iff, el2Lever, h2]
  · obtain ⟨_, _, ha32, _⟩ := route_trap_iff.mp h
    exact ha32
  · obtain ⟨_, _, ha32, _⟩ := route_trap_iff.mp h
    exact ha32
  · obtain ⟨_, ha32, _⟩ := route_trap_iff.mp h
    exact ha32
  · obtain ⟨_, ha32, _⟩ := route_trap_iff.mp h
    exact ha32
  · simp [route_trap_iff, TrapCause, hel]

/-- Settles O6, level by level: at each the rows of the other levels fail, and the two rows of a bank are `bankOf`. -/
theorem literalRouteIsThePrintedChain : Obligations.LiteralRouteIsThePrintedChain := by
  intro cfg ctx hrows
  unfold route printedChain printedRows
  cases ctx.el with
  | el0 => rfl
  | el1 =>
    cases h3 : cfg.haveEl3 <;> cases hns : ctx.scrNs <;>
      simp [routeEl1, a32Row, hrows, firstHolds, bankOf, h3, hns]
  | el2 => simp [routeEl2, firstHolds]
  | el3 => cases hns : ctx.scrNs <;> simp [routeEl3, firstHolds, bankOf, hns]

end Sys2Proof.Machine
end

section
/-!
The round trips through ICV_CTLR (R22, R23, R62): a read sees the two bits a write kept, a write keeps the two a read
returned.
-/
namespace Sys2Proof.Machine

/-- SCR.NS does not matter to an access routed to ICV_CTLR: it is "not banked" (R102). -/
theorem route_icv_withScrNs {cfg : Cfg} {ctx : Ctx} (h : route cfg ctx = .register .icv) (ns : Bool) :
    route cfg { ctx with scrNs := ns } = .register .icv := by
  rw [route_icv_iff] at h ⊢
  exact h

/-- The word of R22 for bits 1 and 0 of a word is the configured fields and these two bits. -/
theorem icvWord_bits (cfg : Cfg) (w : Word) : icvWord cfg (eoimodeBit w) (cbprBit w) = cfgWord cfg ||| (w &&& 0x3) := by
  have hbits : ((eoimodeBit w).setWidth 32 <<< 1) ||| (cbprBit w).setWidth 32 = w &&& 0x3 := by
    apply BitVec.eq_of_getLsbD_eq
    intro k hk
    simp only [eoimodeBit, cbprBit, BitVec.getLsbD_and, BitVec.getLsbD_or, BitVec.getLsbD_shiftLeft,
      BitVec.getLsbD_setWidth, BitVec.getLsbD_extractLsb']
    interval_cases k <;> simp
  rw [icvWord, BitVec.or_assoc, hbits]

/-- The EOImode bit of a read word is the one it was assembled from. -/
@[simp] theorem eoimodeBit_icvWord (cfg : Cfg) (e c : BitVec 1) : eoimodeBit (icvWord cfg e c) = e :=
  congrArg IcvView.eoimode (icvView_icvWord cfg e c)

/-- The CBPR bit of a read word is the one it was assembled from. -/
@[simp] theorem cbprBit_icvWord (cfg : Cfg) (e c : BitVec 1) : cbprBit (icvWord cfg e c) = c :=
  congrArg IcvView.cbpr (icvView_icvWord cfg e c)

/-- `MRC(t)` routed to ICV_CTLR with both fields `Known` writes their word to `x[t]` and draws nothing. -/
theorem exec_mrc_of_known {s : State} {t : BitVec 4} {i : Fin 15} {e c : BitVec 1} (ht : t.toNat = i)
    (hr : route s.cfg s.ctx = .register .icv) (he : s.icv.eoimode.now = .known e) (hc : s.icv.cbpr.now = .known c) :
    exec (.mrc t) s = .next (s.writeX i (icvWord s.cfg e c)).advancePc := by
  rw [exec_mrc_of_route ht hr, State.readTarget, readIcv_known he hc]

/-- Settles O25: after the write both fields are `Known`, and the read's route is the write's. -/
theorem readAfterWrite : Obligations.ReadAfterWrite := by
  intro s t u i j ns ht hu hr
  refine ⟨_, _, exec_mcr_of_route_icv ht hr,
    exec_mrc_of_known hu (route_icv_withScrNs hr ns) (write_now ..) (write_now ..), ?_, rfl⟩
  rw [readX_advancePc, readX_writeX_self]
  exact icvWord_bits s.cfg (s.readX i)

/-- Settles O26: the word read holds the two bits, and the write takes them from it. -/
theorem writeBackKeepsTheFields : Obligations.WriteBackKeepsTheFields := by
  intro s t i e c ht hr he hc
  exact ⟨_, _, exec_mrc_of_known ht hr he hc, exec_mcr_of_route_icv ht hr, by simp, by simp⟩

end Sys2Proof.Machine
end

section
/-!
Uses of EOImode and CBPR by another register's logic (R89): each of the five functions on a state answers the state of
one use of a field, and a use moves the count of draws alone.
-/
namespace Sys2Proof.Machine

/-- `s'` is `s` after at least one draw and is otherwise `s`: an `Unknown` field of it is `Unknown` still. -/
def OnlyDraws (s s' : State) : Prop := ∃ n, s.draws < n ∧ s' = { s with draws := n }

/-- One more draw keeps it so. -/
theorem OnlyDraws.draw {s s' : State} (h : OnlyDraws s s') (width : Nat) : OnlyDraws s (s'.draw width).2 := by
  obtain ⟨n, hn, rfl⟩ := h
  exact ⟨n + 1, Nat.lt_succ_of_lt hn, rfl⟩

/-- A use of a field is the draw of its choice (R45) and, where the chosen value is `Unknown`, the draw of a bit. -/
theorem useField_onlyDraws (s : State) (f : RwField) : OnlyDraws s (s.useField f).2 := by
  obtain ⟨n, hn, h⟩ := fieldVal_state (s.pickVisible f).1 (s.pickVisible f).2
  exact ⟨n, hn, h⟩

/-- A write to ICV_BPR1 is a use of CBPR and one more draw, for what ICV_BPR1's own write rule gives (R84). -/
theorem bpr1Write_onlyDraws (s : State) (stored w : BitVec 3) : OnlyDraws s (s.bpr1Write stored w).2 :=
  (useField_onlyDraws s s.icv.cbpr).draw 3

/-- Settles O49: the first two functions are a use of EOImode, the next two one of CBPR. -/
theorem fieldUsesChangeNothing : Obligations.FieldUsesChangeNothing := by
  intro s g bpr0 stored w
  have heoimode : OnlyDraws s s.useEoimode.2 := useField_onlyDraws s s.icv.eoimode
  have hcbpr : OnlyDraws s s.useCbpr.2 := useField_onlyDraws s s.icv.cbpr
  exact ⟨heoimode, heoimode, hcbpr, hcbpr, bpr1Write_onlyDraws s stored w⟩

end Sys2Proof.Machine
end

section
/-!
The pure functions of 41_field_effects.md: what EOImode and CBPR select (R80 to R84) and what the read-only fields
count and bound (R85 to R87).
-/
namespace Sys2Proof.Machine

/-- Settles O39: the two arms of R80, read as sets. -/
theorem eoirWriteEffectsByEoimode : Obligations.EoirWriteEffectsByEoimode := by
  constructor
  · intro e; simp [eoirWriteEffects]
  · intro e; simp [eoirWriteEffects]

/-- Settles O40: the two arms of R81. -/
theorem dirAccessByEoimode : Obligations.DirAccessByEoimode := ⟨rfl, rfl⟩

/-- Settles O41: Group 0 does not look at CBPR, Group 1 does. -/
theorem preemptionRegisterByCbpr : Obligations.PreemptionRegisterByCbpr := by
  refine ⟨rfl, rfl, fun g => ?_⟩
  cases g with
  | group0 => rfl
  | group1 => rfl

/-- The increment of R83 saturates: its result fits in 3 bits, so nothing wraps. -/
theorem saturatingSucc_toNat (b : BitVec 3) : (saturatingSucc b).toNat = min (b.toNat + 1) 7 :=
  Nat.mod_eq_of_lt (by omega)

/-- Settles O42: the CBPR 1 arm is the saturating increment. -/
theorem bpr1ReadByCbpr : Obligations.Bpr1ReadByCbpr :=
  fun bpr0 _ => ⟨saturatingSucc_toNat bpr0, rfl⟩

/-- Settles O43: the two arms of R84. -/
theorem bpr1WriteByCbpr : Obligations.Bpr1WriteByCbpr := fun _ _ => ⟨rfl, rfl⟩

/-- The priority bits are 1 to 8, since PRIbits is 3 bits wide (R85). -/
theorem priBitCount_bounds (cfg : Cfg) : 1 ≤ priBitCount cfg ∧ priBitCount cfg ≤ 8 := by
  have := cfg.priBits.isLt
  unfold priBitCount
  omega

/-- PRI_MIN5 is the bound of 32 levels: they are `2^5` at PRIbits 4 and grow with PRIbits (R18). -/
theorem priMin5_iff (cfg : Cfg) : priMin5 cfg = true ↔ 32 ≤ priLevels cfg := by
  calc priMin5 cfg = true ↔ 5 ≤ priBitCount cfg := by simp [priMin5, priBitCount]
    _ ↔ 2 ^ 5 ≤ priLevels cfg := (Nat.pow_le_pow_iff_right Nat.one_lt_two).symm

/-- IDbits gives no count exactly at the values R17 reserves. -/
theorem idBitCount_eq_none_iff (v : BitVec 3) : idBitCount v = none ↔ v ≠ 0b000 ∧ v ≠ 0b001 := by
  by_cases h0 : v = 0b000
  · simp [idBitCount, h0]
  · by_cases h1 : v = 0b001
    · simp [idBitCount, h1]
    · rw [idBitCount, if_neg h0, if_neg h1]
      exact iff_of_true rfl ⟨h0, h1⟩

/-- Settles O44, from the bounds of the priority bits, `priMin5_iff` and `idBitCount_eq_none_iff`. -/
theorem identificationCounts : Obligations.IdentificationCounts := by
  refine ⟨fun cfg => ?_, rfl, rfl, idBitCount_eq_none_iff⟩
  obtain ⟨hlower, hupper⟩ := priBitCount_bounds cfg
  exact ⟨rfl, hlower, hupper, rfl, priMin5_iff cfg⟩

/-- The extended range holds both its bounds (R86). -/
theorem extendedIntid_iff {intid : Nat} : extendedIntid intid = true ↔ 1024 ≤ intid ∧ intid ≤ 8191 := by
  simp [extendedIntid]

/-- Outside the extended range ExtRange does not matter. -/
theorem deliverIntid_of_not_extended {intid : Nat} (h : ¬(1024 ≤ intid ∧ intid ≤ 8191)) (extRange : BitVec 1) :
    deliverIntid extRange intid = .ok .accepted :=
  if_neg (extendedIntid_iff.not.mpr h)

/-- Inside the extended range ExtRange decides. -/
theorem deliverIntid_of_extended {intid : Nat} (h : 1024 ≤ intid ∧ intid ≤ 8191) (extRange : BitVec 1) :
    deliverIntid extRange intid =
      if extRange = 0 then .error (.unpredictable .extendedIntid) else .ok .requiresDeactivation :=
  if_pos (extendedIntid_iff.mpr h)

/-- Settles O45: inside the range by the value of ExtRange, outside it whatever ExtRange is. -/
theorem deliveryByExtRange : Obligations.DeliveryByExtRange := by
  intro extRange intid
  by_cases h : 1024 ≤ intid ∧ intid ≤ 8191
  · have hout : ¬(intid < 1024 ∨ 8191 < intid) := by omega
    rw [deliverIntid_of_extended h]
    rcases BitVec.eq_zero_or_eq_one extRange with rfl | rfl
    · simp [h, hout]
    · simp [h, hout]
  · have hout : intid < 1024 ∨ 8191 < intid := by omega
    simp [deliverIntid_of_not_extended h, h, hout]

/-- An SGI is refused exactly when one of its two affinity values is unsupported (R87). -/
theorem sgiRequest_refused_iff (cfg : Cfg) (aff0 aff3 : Nat) : sgiRequest cfg aff0 aff3 = .error .sgiUnsupported ↔
    sgiAff0Supported cfg.rss aff0 = false ∨ sgiAff3Supported cfg.a3v aff3 = false := by
  rw [← Bool.and_eq_false_iff, sgiRequest]
  cases sgiAff0Supported cfg.rss aff0 && sgiAff3Supported cfg.a3v aff3 with
  | false => simp
  | true => simp

/-- Settles O46: the arms of the two bounds, and `sgiRequest_refused_iff`. -/
theorem sgiAffinityByRssAndA3v : Obligations.SgiAffinityByRssAndA3v := by
  refine ⟨fun aff0 => ⟨?_, ?_⟩, fun aff3 => ⟨?_, rfl⟩, sgiRequest_refused_iff⟩
  · simp [sgiAff0Supported]
  · simp [sgiAff0Supported]
  · simp [sgiAff3Supported]

end Sys2Proof.Machine
end

section
/-!
The outcomes (R90 to R97): each record comes of one trap of the chain, whose cause `route_trap_iff` gives, and what EL2
decides at EL1 comes before every test of EL3.
-/
namespace Sys2Proof.Machine

/-- At EL1 a lever of EL2 decides alone: its trap, or else ICV_CTLR (R96, R99). -/
theorem route_of_el2Lever {cfg : Cfg} {ctx : Ctx} (hel : ctx.el = .el1) (hl : el2Lever cfg ctx = true) :
    route cfg ctx = if ctx.el2Enabled && (ctx.t12 || ctx.tc) then .trap (if ctx.el2A32 then .hyp else .el2A64)
      else .register .icv := by
  simp [route, hel, routeEl1_eq, hl]

/-- Settles O9: neither EL2's lever nor the answer `route_of_el2Lever` gives reads an input of EL3. -/
theorem el2LeversShieldFromEl3 : Obligations.El2LeversShieldFromEl3 := by
  intro cfg ctx have3 a32 irq64 fiq64 irq32 fiq32 ns mon hel hl
  rw [route_of_el2Lever hel hl]
  exact route_of_el2Lever hel hl

section
variable {i : Instr} {s : State}

/-- An outcome that one trap alone yields, and that under `P`, is raised exactly under `P` for that trap's cause. -/
theorem exec_fault_iff_cause {f : Fault} {trap : Trap} {P : Prop}
    (h : ∀ trap', f = takeTrap i.dir i.rt s trap' ↔ trap' = trap ∧ P) :
    exec i s = .fault f ↔ i.wf = true ∧ P ∧ TrapCause s.cfg s.ctx trap := by
  rw [exec_fault_iff, and_congr_right_iff]
  intro _
  constructor
  · rintro ⟨trap', hroute, hf⟩
    obtain ⟨rfl, hP⟩ := (h trap').mp hf
    exact ⟨hP, route_trap_iff.mp hroute⟩
  · rintro ⟨hP, hcause⟩
    exact ⟨trap, route_trap_iff.mpr hcause, (h trap).mpr ⟨rfl, hP⟩⟩

/-- The record an access takes is the one R91 and D11 write out. -/
theorem accessRecord_eq_recordOf : accessRecord i.dir i.rt s = recordOf i s := rfl

end

/-- The trap to EL2 using AArch64 tests the AArch64 control bits (rows E1.1, E1.3). -/
theorem trapCause_el2A64_iff {cfg : Cfg} {ctx : Ctx} : TrapCause cfg ctx .el2A64 ↔
    ctx.el = .el1 ∧ ctx.el2Enabled = true ∧ ctx.el2A32 = false ∧
      (ctx.hstrEl2T12 = true ∨ ctx.ichHcrEl2Tc = true) := by
  cases h : ctx.el2A32 <;> simp [TrapCause, Ctx.t12, Ctx.tc, h]

/-- The trap to EL2 using AArch32 tests the AArch32 control bits (rows E1.2, E1.4). -/
theorem trapCause_hyp_iff {cfg : Cfg} {ctx : Ctx} : TrapCause cfg ctx .hyp ↔
    ctx.el = .el1 ∧ ctx.el2Enabled = true ∧ ctx.el2A32 = true ∧ (ctx.hstrT12 = true ∨ ctx.ichHcrTc = true) := by
  cases h : ctx.el2A32 <;> simp [TrapCause, Ctx.t12, Ctx.tc, h]

/-- Settles O11: `Undefined` comes of UNDEF alone, whose `TrapCause` is the three contexts of R90. -/
theorem undefinedOutcome : Obligations.UndefinedOutcome := by
  intro i s p
  refine exec_fault_iff_cause (trap := .undef) fun trap => ?_
  cases trap <;> simp [takeTrap]

/-- Settles O12: the target EL2 leaves TRAP_EL2_A64, and `trapCause_el2A64_iff` its causes. -/
theorem aArch64El2TrapOutcome : Obligations.AArch64El2TrapOutcome := by
  intro i s code a
  rw [← trapCause_el2A64_iff (cfg := s.cfg), ← and_assoc (a := code = _)]
  refine exec_fault_iff_cause fun trap => ?_
  cases trap <;> simp [takeTrap, trapCode, accessRecord_eq_recordOf]

/-- Settles O13: `HypTrap` comes of HYP_TRAP alone, and `trapCause_hyp_iff` gives its causes. -/
theorem hypTrapOutcome : Obligations.HypTrapOutcome := by
  intro i s code a
  rw [← trapCause_hyp_iff (cfg := s.cfg), ← and_assoc (a := code = _)]
  refine exec_fault_iff_cause fun trap => ?_
  cases trap <;> simp [takeTrap, trapCode, accessRecord_eq_recordOf]

/-- Settles O14: the target EL3 leaves TRAP_EL3_A64, whose `TrapCause` is that of R93. -/
theorem aArch64El3TrapOutcome : Obligations.AArch64El3TrapOutcome := by
  intro i s code a
  rw [← and_assoc (a := code = _)]
  refine exec_fault_iff_cause (trap := .el3A64) fun trap => ?_
  cases trap <;> simp [takeTrap, trapCode, accessRecord_eq_recordOf]

/-- Settles O15: `MonitorTrap` comes of MONITOR_TRAP alone, whose `TrapCause` is that of R94. -/
theorem monitorTrapOutcome : Obligations.MonitorTrapOutcome := by
  intro i s a
  refine exec_fault_iff_cause (trap := .monitor) fun trap => ?_
  cases trap <;> simp [takeTrap, accessRecord_eq_recordOf]

/-- A step raises an outcome exactly when the instruction it fetched does. -/
theorem step_fault_iff {s : State} {f : Fault} :
    step s = .fault f ↔ ∃ i, fetchInstr s = .ok i ∧ exec i s = .fault f := by
  unfold step
  cases fetchInstr s <;> simp

/-- Settles O16: none of the five traps yields `Unpredictable`. -/
theorem accessIsNeverUnpredictable : Obligations.AccessIsNeverUnpredictable := by
  intro s what h
  obtain ⟨i, _, hexec⟩ := step_fault_iff.mp h
  obtain ⟨_, trap, _, hf⟩ := exec_fault_iff.mp hexec
  cases trap <;> cases hf

end Sys2Proof.Machine
end

section
/-!
The start of a run (R110): what `State.launch` gives, and that it meets the invariant of a run.
-/
namespace Sys2Proof.Machine

/-- A run starts at place 0 (R115). -/
theorem offset_launch (cfg : Cfg) (ctx : Ctx) (x : Vector Word 15) (base : Word) (program : List CodeWord) (phys : Phys)
    (draws : Nat) : (State.launch cfg ctx x base program phys draws).offset = 0 := by
  simp [State.offset, State.launch]

/-- Settles O33: a launch stands at place 0 and no field has an old value. -/
theorem launchMeetsTheRunInvariant : Obligations.LaunchMeetsTheRunInvariant := by
  intro cfg ctx x base program phys draws hcfg hctx hfits
  obtain ⟨hon, hplace⟩ := onPlace_and_place_iff (k := 0).mpr (offset_launch cfg ctx x base program phys draws)
  exact {
    cfg_admitted := hcfg
    ctx_admitted := hctx
    fits := hfits
    on_place := hon
    in_run := hplace ▸ Nat.zero_le _
    settled := fun _ => ⟨rfl, rfl⟩
    eoimode_unwritten := fun _ => rfl
    cbpr_unwritten := fun _ => rfl
    together := rfl }

/-- Settles O34: `State.reset` is the launch of the empty program in the example's configuration and context. -/
theorem resetMeetsTheRunInvariant : Obligations.ResetMeetsTheRunInvariant :=
  launchMeetsTheRunInvariant exampleCfg exampleCtx _ _ [] _ _ (by decide) (by decide) (by decide)

/-- Settles O35: `State.launch` sets the three fields so. -/
theorem resetLeavesTheFieldsUnknown : Obligations.ResetLeavesTheFieldsUnknown :=
  ⟨fun _ _ _ _ _ _ _ => ⟨rfl, rfl, rfl⟩, rfl, rfl⟩

end Sys2Proof.Machine
end

section
/-!
Whole runs (R115): a step of a run is the decoded instruction's, each completed step takes one place of the program, and
a program of admitted instructions takes them all.
-/
namespace Sys2Proof.Machine

/-- A step is the meaning of the instruction fetched. -/
theorem step_of_fetchInstr {s : State} {i : Instr} (h : fetchInstr s = .ok i) : step s = exec i s := by
  simp [step, h]

/-- Settles O27: the fetch finds the `k`-th entry at the pc and decodes it to `i`. -/
theorem stepRunsTheDecodedInstruction : Obligations.StepRunsTheDecodedInstruction := by
  intro s k c i hcfg hk hc hd
  exact step_of_fetchInstr (fetchInstr_ok_iff.mpr ⟨hcfg, c, currentCode_of_offset hk hc, hd⟩)

/-- A run of `k + 1` completed steps took `k + 1` places of the program, from the one it stood at. -/
theorem place_add_lt_of_runSteps {k : Nat} {s t : State} (hn : s.program.length < 2 ^ 30)
    (h : runSteps (k + 1) s = .next t) : s.place + k < s.program.length := by
  induction k generalizing s with
  | zero =>
    obtain ⟨s', hstep, _⟩ := runSteps_succ_next h
    obtain ⟨⟨_, hf⟩, _⟩ := step_next hstep
    exact (place_lt_of_fetchInstr hf).2
  | succ k ih =>
    obtain ⟨s', hstep, hrest⟩ := runSteps_succ_next h
    obtain ⟨_, run, _⟩ := step_next hstep
    obtain ⟨_, hplace, _⟩ := place_of_step hstep hn
    have hlt := ih (run.program ▸ hn) hrest
    rw [hplace, run.program] at hlt
    omega

/-- Settles O36: `n + 1` completed steps would take `n + 1` places of `n`. -/
theorem runEndsWithinItsLength : Obligations.RunEndsWithinItsLength := by
  intro s s' hn h
  have := place_add_lt_of_runSteps hn h
  omega

/-- A run of the instructions `is` from the address `base` that nothing refuses and no trap stops. -/
structure Unhindered (is : List Instr) (base : Word) (s : State) : Prop where
  /-- every instruction names a register (R56) -/
  wf : ∀ i ∈ is, i.wf = true
  /-- each place and the end have an address of their own (R115) -/
  fits : is.length < 2 ^ 30
  /-- the configuration is one of this hardware (R17) -/
  cfg_admitted : configAdmitted s.cfg = true
  /-- every access completes (R60) -/
  routed : ∃ target, route s.cfg s.ctx = .register target
  /-- the program is the text of `is` -/
  program : s.program = is.map codeOf
  /-- where it is loaded -/
  base_eq : s.base = base

section
variable {is : List Instr} {base : Word} {s s' : State}

theorem Unhindered.length_program (run : Unhindered is base s) : s.program.length = is.length := by
  rw [run.program, List.length_map]

/-- What makes a run unhindered is what no step changes. -/
theorem Unhindered.of_sameRun (run : Unhindered is base s) (same : SameRun s s') : Unhindered is base s' where
  wf := run.wf
  fits := run.fits
  cfg_admitted := same.cfg ▸ run.cfg_admitted
  routed := by rw [same.cfg, same.ctx]; exact run.routed
  program := same.program.trans run.program
  base_eq := same.base.trans run.base_eq

/-- Before the end an unhindered run completes the instruction at its place and stands at the next one. -/
theorem Unhindered.step_completes {k : Nat} (run : Unhindered is base s) (hk : s.offset = 4 * k) (hlt : k < is.length) :
    ∃ s', step s = .next s' ∧ Unhindered is base s' ∧ s'.offset = 4 * (k + 1) := by
  have hcode : s.program[k]? = some (codeOf is[k]) := by simp [run.program, hlt]
  have hwf : is[k].wf = true := run.wf _ (List.getElem_mem hlt)
  have hdecode : decode s.cfg.iset .outside (encode is[k]) = .ok is[k] := decode_ok_iff.mpr ⟨fun _ => rfl, hwf, rfl⟩
  obtain ⟨target, hroute⟩ := run.routed
  obtain ⟨s', hexec⟩ := exec_next_of_route hwf hroute
  have hstep : step s = .next s' :=
    (stepRunsTheDecodedInstruction s k _ _ run.cfg_admitted hk hcode hdecode).trans hexec
  obtain ⟨_, same, _⟩ := step_next hstep
  have hoff := offset_of_step hstep (run.length_program ▸ run.fits)
  exact ⟨s', hstep, run.of_sameRun same, by omega⟩

/-- From place `k`, as many steps as there are instructions left bring an unhindered run to its end. -/
theorem Unhindered.runSteps_completes {m k : Nat} (run : Unhindered is base s) (hk : s.offset = 4 * k)
    (hm : k + m = is.length) :
    ∃ s', runSteps m s = .next s' ∧ Unhindered is base s' ∧ s'.offset = 4 * is.length := by
  induction m generalizing s k with
  | zero => exact ⟨s, rfl, run, by omega⟩
  | succ m ih =>
    obtain ⟨s₁, hstep, run₁, hk₁⟩ := run.step_completes hk (by omega)
    rw [runSteps_of_next hstep]
    exact ih run₁ hk₁ (by omega)

/-- A program of admitted instructions, loaded where each access completes, is an unhindered run at place 0. -/
theorem unhindered_loadProgram {target : Target} (hwf : ∀ i ∈ is, i.wf = true) (hfits : is.length < 2 ^ 30)
    (hcfg : configAdmitted s.cfg = true) (hroute : route s.cfg s.ctx = .register target) :
    Unhindered is s.pc (s.loadProgram is) ∧ (s.loadProgram is).offset = 0 :=
  ⟨⟨hwf, hfits, hcfg, ⟨target, hroute⟩, rfl, rfl⟩, by simp [State.offset]⟩

end

/-- Settles O37: the unhindered run from place 0 ends at offset `4*n`, and there O28 says how the step stops. -/
theorem programRunsToItsEnd : Obligations.ProgramRunsToItsEnd := by
  intro s is target hwf hfits hcfg hroute
  obtain ⟨run, hstart⟩ := unhindered_loadProgram hwf hfits hcfg hroute
  obtain ⟨s', hsteps, run', hend⟩ := run.runSteps_completes (k := 0) hstart (Nat.zero_add _)
  have hpc : s'.pc = s'.base + BitVec.ofNat 32 (4 * is.length) := (offset_eq_iff (by omega)).mp hend
  have hlen : s'.program.length = is.length := run'.length_program
  obtain ⟨_, _, hstop⟩ := stepStopsWhereTheSpecRefuses s'
  refine ⟨s', hsteps, run'.base_eq ▸ hpc, (hstop run'.cfg_admitted (hlen ▸ hfits)).mpr ?_⟩
  rw [hlen, hpc]

end Sys2Proof.Machine
end
